-- ==== Sys2Proof/Word.lean ====
section
/-!
DEFINITION. The word types of the LR engine: a 32-bit register word (R11), a 64-bit physical address (R60), the
18-bit request descriptor (R80) and the widths of a slot's fields (R11, R23).
-/
namespace Sys2Proof

/-- A 32-bit register word or request operand (R11, R80). -/
abbrev Word := BitVec 32

/-- A 64-bit physical address (R8, R60). -/
abbrev Addr := BitVec 64

/-- The 18-bit request descriptor: KIND[17:16], SIZE[15:12], OFF[11:0] (R80, R81). -/
abbrev Descriptor := BitVec 18

/-- A 10-bit interrupt identifier, virtual or physical (R11, R23). -/
abbrev IntId := BitVec 10

/-- A 5-bit priority; a lower value is a higher priority (R11, R23). -/
abbrev Priority := BitVec 5

/-- The index of one of the 16 list-register slots (R22). -/
abbrev SlotIndex := Fin 16

/-- The index of one of the four active-priority words (R34). -/
abbrev AprIndex := Fin 4

end Sys2Proof
end

