-- ==== Sys2Proof/Config.lean ====
section
/-!
DEFINITION. The implementation parameters of one instance (R7-R10, R244). Every value of the type is a legal
configuration: the bounds of R7, R8 and R9 are built into the fields' types, so no check of a configuration is needed.
-/
namespace Sys2Proof

/-- `SUBWORD_WRITE_MODE` (R10): what a 1- or 2-byte bus write does. -/
inductive SubwordWriteMode where
  /-- True read-modify-write byte merging (R70). -/
  | merge
  /-- The raw value is forwarded as a full-word write (R71). -/
  | rawForward
deriving DecidableEq, Repr

/-- The parameters of one instance, fixed when it is created (R7-R10, R244). -/
structure Config where
  /-- N_LR - 1, as VTR.ListRegs advertises it, so that 1 <= N_LR <= 16 (R7, R31). -/
  listRegs : Fin 16
  /-- BASE / 0x10000: BASE is a multiple of 0x10000 (R8). -/
  basePage : BitVec 48
  /-- UNDERFLOW_LWM, 0..16 (R9). -/
  underflowLwm : Fin 17
  /-- SUBWORD_WRITE_MODE (R10). -/
  subwordMode : SubwordWriteMode
deriving DecidableEq, Repr

/-- N_LR, the number of implemented list registers, 1..16 (R7). -/
def Config.nLr (c : Config) : Nat := c.listRegs.val + 1

/-- BASE, the first address of the 64 KiB register window (R8). -/
def Config.base (c : Config) : Addr := c.basePage ++ 0#16

/-- The configuration of the spec's test vectors: N_LR = 4, BASE = 0x2C010000, UNDERFLOW_LWM = 1 (the default of R9),
SUBWORD_WRITE_MODE = MERGE (the default of R10). DESIGN CHOICE (log 2): the spec gives N_LR and BASE no default. -/
def Config.standard : Config :=
  { listRegs := 3, basePage := 0x2C01#48, underflowLwm := 1, subwordMode := .merge }

/-- The device-type tag the block exposes for registration (R231). The spec gives no value (I18: any value) and no rule
reads it, so it is a free value (log 3). -/
opaque Config.deviceTypeTag : Nat

end Sys2Proof
end

