-- ==== Sys2Proof/Syntax.lean ====
section
/-!
DEFINITION. The requests the LR engine accepts, as decoded instructions: one constructor of `Instr` per row of
spec/opcode_table.json (R80-R84), and the request-level assembler's abstract syntax (R88, R89).
-/
namespace Sys2Proof

/-- The register map's entries (R82): what a word offset selects. -/
inductive Reg where
  | hcr
  | vtr
  | vmcr
  | misr
  | eisr0
  | eisr1
  | elrsr0
  | elrsr1
  | apr (n : AprIndex)
  | lr (n : SlotIndex)
  /-- A reserved word, with bits [11:2] of its offset. -/
  | rsvd (woff : BitVec 10)
deriving DecidableEq, Repr

/-- One decoded request. `size` is the SIZE field, `lane` is OFF[1:0], `data` the 32-bit write operand (R80, R81, R83). -/
inductive Instr where
  /-- `EV_ACK` (R200). -/
  | evAck
  /-- `EV_EOI`, vid = data[9:0] (R202, R203). -/
  | evEoi (vid : IntId)
  /-- `EV_DEACT`, index = data[3:0] (R204). -/
  | evDeact (index : SlotIndex)
  /-- `EV_SETPWS`, b = data[0] (R206). -/
  | evSetPws (b : Bool)
  /-- `RD_HCR` (R102). -/
  | rdHcr (size : BitVec 4) (lane : BitVec 2)
  /-- `WR_HCR` (R103). -/
  | wrHcr (size : BitVec 4) (lane : BitVec 2) (data : Word)
  /-- `RD_VTR` (R104). -/
  | rdVtr (size : BitVec 4) (lane : BitVec 2)
  /-- `WR_VTR` (R105). -/
  | wrVtr (size : BitVec 4) (lane : BitVec 2) (data : Word)
  /-- `RD_VMCR` (R106). -/
  | rdVmcr (size : BitVec 4) (lane : BitVec 2)
  /-- `WR_VMCR` (R107). -/
  | wrVmcr (size : BitVec 4) (lane : BitVec 2) (data : Word)
  /-- `RD_MISR` (R108). -/
  | rdMisr (size : BitVec 4) (lane : BitVec 2)
  /-- `WR_MISR` (R109). -/
  | wrMisr (size : BitVec 4) (lane : BitVec 2) (data : Word)
  /-- `RD_EISR0` (R110). -/
  | rdEisr0 (size : BitVec 4) (lane : BitVec 2)
  /-- `WR_EISR0` (R111). -/
  | wrEisr0 (size : BitVec 4) (lane : BitVec 2) (data : Word)
  /-- `RD_EISR1` (R112). -/
  | rdEisr1 (size : BitVec 4) (lane : BitVec 2)
  /-- `WR_EISR1` (R113). -/
  | wrEisr1 (size : BitVec 4) (lane : BitVec 2) (data : Word)
  /-- `RD_ELRSR0` (R114). -/
  | rdElrsr0 (size : BitVec 4) (lane : BitVec 2)
  /-- `WR_ELRSR0` (R115). -/
  | wrElrsr0 (size : BitVec 4) (lane : BitVec 2) (data : Word)
  /-- `RD_ELRSR1` (R116). -/
  | rdElrsr1 (size : BitVec 4) (lane : BitVec 2)
  /-- `WR_ELRSR1` (R117). -/
  | wrElrsr1 (size : BitVec 4) (lane : BitVec 2) (data : Word)
  /-- `RD_APR` of word n = OFF[3:2] (R118). -/
  | rdApr (size : BitVec 4) (lane : BitVec 2) (n : AprIndex)
  /-- `WR_APR` of word n = OFF[3:2] (R119). -/
  | wrApr (size : BitVec 4) (lane : BitVec 2) (n : AprIndex) (data : Word)
  /-- `RD_LR` of slot n = OFF[5:2] (R120). -/
  | rdLr (size : BitVec 4) (lane : BitVec 2) (n : SlotIndex)
  /-- `WR_LR` of slot n = OFF[5:2] (R121). -/
  | wrLr (size : BitVec 4) (lane : BitVec 2) (n : SlotIndex) (data : Word)
  /-- `RD_RSVD` of the reserved word whose offset has bits [11:2] = woff (R122). -/
  | rdRsvd (size : BitVec 4) (lane : BitVec 2) (woff : BitVec 10)
  /-- `WR_RSVD` of the reserved word whose offset has bits [11:2] = woff (R123). -/
  | wrRsvd (size : BitVec 4) (lane : BitVec 2) (woff : BitVec 10) (data : Word)
deriving DecidableEq, Repr

/-- Why a descriptor is not a request (R86). -/
inductive DecodeError where
  /-- KIND = 0b11. -/
  | reservedKind
  /-- KIND = 0b10 with CODE > 3. -/
  | reservedEventCode
  /-- KIND = 0b10 with OFF[11:4] != 0. -/
  | eventOffsetNotZero
deriving DecidableEq, Repr

/-- One row of spec/opcode_table.json: a descriptor d matches when d AND mask = pattern. -/
structure OpcodeRow where
  mnemonic : String
  pattern : Descriptor
  mask : Descriptor
deriving DecidableEq, Repr

/-- The textual requests of R88, as abstract syntax. -/
inductive Asm where
  /-- `rd.<size> <off>` -/
  | rd (size : Nat) (off : BitVec 12)
  /-- `wr.<size> <off>, <data>` -/
  | wr (size : Nat) (off : BitVec 12) (data : Word)
  /-- `ack` -/
  | ack
  /-- `eoi <vid>` -/
  | eoi (vid : IntId)
  /-- `deact <index>` -/
  | deact (index : SlotIndex)
  /-- `pws <0|1>` -/
  | pws (b : Bool)
deriving DecidableEq, Repr

end Sys2Proof
end

