-- ==== Sys2Proof/Machine/State.lean ====
section
/-!
DEFINITION. The state of one instance (R20-R42) as plain data, the reasons a step can report or stop, and the state
at creation (R240-R243).
-/
namespace Sys2Proof.Machine

/-- The four states of a slot (R23, R24). -/
inductive SlotState where
  | inactive
  | pending
  | active
  | activeAndPending
deriving DecidableEq, Repr

/-- The interrupt group of a slot (R23). -/
inductive Group where
  | group0
  | group1
deriving DecidableEq, Repr

/-- One list-register slot, a virtual interrupt (R23). -/
structure Slot where
  vid : IntId
  pid : IntId
  hw : Bool
  grp : Group
  pri : Priority
  state : SlotState
deriving DecidableEq, Repr

/-- The all-zero slot: Inactive, every field 0 (R22, R26). -/
def Slot.zero : Slot := { vid := 0, pid := 0, hw := false, grp := .group0, pri := 0, state := .inactive }

/-- The stored fields of the hypervisor control register; its reserved bits hold no storage (R29, R39). -/
structure Hcr where
  en : Bool
  uie : Bool
  lrenpie : Bool
  npie : Bool
  vgrp0eie : Bool
  vgrp0die : Bool
  vgrp1eie : Bool
  vgrp1die : Bool
  eoiCount : BitVec 5
deriving DecidableEq, Repr

/-- The stored fields of the virtual machine control register; its reserved bits hold no storage (R32, R39). -/
structure Vmcr where
  veng0 : Bool
  veng1 : Bool
  vAckCtl : Bool
  vFiqEn : Bool
  vCbpr : Bool
  vEoim : Bool
  vbpr1 : BitVec 3
  vbpr0 : BitVec 3
  vpmr : Priority
deriving DecidableEq, Repr

/-- A request an actor presents to the block (R13, R80, R207, R227). -/
inductive Request where
  /-- `BusRead(addr, size)`. -/
  | busRead (addr : Addr) (size : Nat)
  /-- `BusWrite(addr, size, data)`. -/
  | busWrite (addr : Addr) (size : Nat) (data : Word)
  /-- A request in the descriptor form of R80. Input events come in this form; a bus descriptor in this form stands for
  a bus request that has passed the window check. -/
  | described (desc : Descriptor) (data : Word)
deriving DecidableEq, Repr

/-- The one fault of the block (R220). It never stops the machine: it is the result a request gets, so `step` answers a
next state that holds it. Safe: the state it leaves is the state before the request (R221). -/
inductive Fault where
  /-- `InvalidTarget(addr)`: raised by the window check of a bus request (`raiseInvalidTarget`), and by nothing else. -/
  | invalidTarget (addr : Addr)
deriving DecidableEq, Repr

/-- The reasons a step is refused. -/
inductive Refusal where
  /-- Raised by `exec` for an instruction without a meaning. No arm raises it. Safe. -/
  | notModelled (mnemonic : String)
  /-- Raised by `step` for a descriptor that R86 reserves: it is not a request and the block has no step for it. Safe:
  nothing can be proved of what such a descriptor would do. -/
  | reservedDescriptor (desc : Descriptor) (why : DecodeError)
deriving DecidableEq, Repr

/-- What a request returns to its requester (R65-R72, R201, R220). -/
inductive Result where
  /-- The 32-bit result of a bus read, zero-extended (R83). -/
  | readData (value : Word)
  /-- Completion of a bus write, whether or not it had an effect. -/
  | writeDone
  /-- The interrupt ID an ACK returns (R201). -/
  | ackId (vid : IntId)
  /-- Completion of EOI, DEACT_DONE or SET_PWS, which return nothing (D37). -/
  | eventDone
  /-- The fault, in place of read data or write completion (R220). -/
  | fault (reason : Fault)
deriving DecidableEq, Repr

/-- The state of one instance (R20), with three fields of the model's own: the configuration `cfg`, which no step
changes (R21, R244; log 1), the requests not yet taken `inbox` (log 5), and the last request's result `result`
(log 6). -/
structure State where
  /-- The parameters of the instance (R7-R10). -/
  cfg : Config
  /-- The list register file; a slot at an index >= N_LR holds `Slot.zero` (R22). -/
  lr : Vector Slot 16
  /-- The hidden per-slot EOI flags (R27). -/
  eoif : Vector Bool 16
  /-- The pending-without-slot input latch (R28). -/
  pws : Bool
  /-- Hypervisor control (R29). -/
  hcr : Hcr
  /-- Virtual machine control (R32). -/
  vmcr : Vmcr
  /-- The active-priority words (R34). -/
  apr : Vector Word 4
  /-- The requests the environment has issued and the block has not taken yet, oldest first. -/
  inbox : List Request
  /-- What the last request returned; none when no request has been taken. -/
  result : Option Result
deriving DecidableEq, Repr

/-- Every field of HCR at 0 (R29, R241). -/
def Hcr.zero : Hcr :=
  { en := false, uie := false, lrenpie := false, npie := false, vgrp0eie := false, vgrp0die := false,
    vgrp1eie := false, vgrp1die := false, eoiCount := 0 }

/-- Every field of VMCR at 0 (R32, R241). -/
def Vmcr.zero : Vmcr :=
  { veng0 := false, veng1 := false, vAckCtl := false, vFiqEn := false, vCbpr := false, vEoim := false,
    vbpr1 := 0, vbpr0 := 0, vpmr := 0 }

/-- The state at creation of an instance with configuration `c` (R240, R241): every stored field 0, no request issued. -/
def State.created (c : Config) : State :=
  { cfg := c, lr := Vector.replicate 16 Slot.zero, eoif := Vector.replicate 16 false, pws := false,
    hcr := Hcr.zero, vmcr := Vmcr.zero, apr := Vector.replicate 4 0#32, inbox := [], result := none }

/-- The state at creation (R241) of an instance with the test vectors' configuration (log 2). -/
def State.reset : State := State.created Config.standard

end Sys2Proof.Machine
end

