-- ==== Sys2Proof/Machine/Operands.lean ====
section
/-!
DEFINITION. The operand forms: the codecs between register words and stored fields (R24, R25, R102-R107, R140, R141), the
width and lane handling of bus reads and writes (R64-R72), and the predicates of a slot state (R15).
-/
namespace Sys2Proof.Machine

/-! ### Slot states and groups -/

/-- The 2-bit code of a slot state (R24). -/
def SlotState.code (st : SlotState) : BitVec 2 :=
  match st with
  | .inactive => 0b00#2
  | .pending => 0b01#2
  | .active => 0b10#2
  | .activeAndPending => 0b11#2

/-- The slot state of a 2-bit code (R24). -/
def SlotState.ofCode (c : BitVec 2) : SlotState :=
  if c = 0b00#2 then .inactive
  else if c = 0b01#2 then .pending
  else if c = 0b10#2 then .active
  else .activeAndPending

/-- `IsActive` (R15). -/
def SlotState.isActive (st : SlotState) : Bool :=
  match st with
  | .inactive => false
  | .pending => false
  | .active => true
  | .activeAndPending => true

/-- `IsPending` (R15). -/
def SlotState.isPending (st : SlotState) : Bool :=
  match st with
  | .inactive => false
  | .pending => true
  | .active => false
  | .activeAndPending => true

/-- 0 = Group0, 1 = Group1 (R23). -/
def Group.code (g : Group) : Bool :=
  match g with
  | .group0 => false
  | .group1 => true

/-- The group of a group bit (R23). -/
def Group.ofCode (b : Bool) : Group := if b then .group1 else .group0

/-! ### Register words -/

/-- A word whose only bit that may be 1 is bit `k`, holding `b`. -/
def bitAt (b : Bool) (k : Nat) : Word := (BitVec.ofBool b).setWidth 32 <<< k

/-- `EncodeLR` (R140). -/
def encodeLR (x : Slot) : Word :=
  bitAt x.hw 31 ||| bitAt x.grp.code 30 ||| x.state.code.setWidth 32 <<< 28 |||
    x.pri.setWidth 32 <<< 23 ||| x.pid.setWidth 32 <<< 10 ||| x.vid.setWidth 32

/-- `DecodeLR` (R141): bits [22:20] are dropped, and every word decodes. -/
def decodeLR (v : Word) : Slot :=
  { vid := v.extractLsb' 0 10
    pid := v.extractLsb' 10 10
    hw := v.getLsbD 31
    grp := Group.ofCode (v.getLsbD 30)
    pri := v.extractLsb' 23 5
    state := SlotState.ofCode (v.extractLsb' 28 2) }

/-- `HcrWord()` (R102). -/
def hcrWord (h : Hcr) : Word :=
  h.eoiCount.setWidth 32 <<< 27 ||| bitAt h.vgrp1die 7 ||| bitAt h.vgrp1eie 6 ||| bitAt h.vgrp0die 5 |||
    bitAt h.vgrp0eie 4 ||| bitAt h.npie 3 ||| bitAt h.lrenpie 2 ||| bitAt h.uie 1 ||| bitAt h.en 0

/-- The fields `HcrWrite(v)` stores (R103); bits [26:8] are ignored. -/
def hcrOfWord (v : Word) : Hcr :=
  { en := v.getLsbD 0
    uie := v.getLsbD 1
    lrenpie := v.getLsbD 2
    npie := v.getLsbD 3
    vgrp0eie := v.getLsbD 4
    vgrp0die := v.getLsbD 5
    vgrp1eie := v.getLsbD 6
    vgrp1die := v.getLsbD 7
    eoiCount := v.extractLsb' 27 5 }

/-- The value of VTR, a constant of the configuration (R31, R104). -/
def vtrWord (c : Config) : Word := 0x90000000#32 ||| BitVec.ofNat 32 (c.nLr - 1)

/-- `VmcrWord()` (R106). -/
def vmcrWord (m : Vmcr) : Word :=
  m.vpmr.setWidth 32 <<< 27 ||| m.vbpr0.setWidth 32 <<< 21 ||| m.vbpr1.setWidth 32 <<< 18 |||
    bitAt m.vEoim 9 ||| bitAt m.vCbpr 4 ||| bitAt m.vFiqEn 3 ||| bitAt m.vAckCtl 2 |||
    bitAt m.veng1 1 ||| bitAt m.veng0 0

/-- The fields `VmcrWrite(v)` stores (R107); bits [8:5], [17:10] and [26:24] are ignored. -/
def vmcrOfWord (v : Word) : Vmcr :=
  { veng0 := v.getLsbD 0
    veng1 := v.getLsbD 1
    vAckCtl := v.getLsbD 2
    vFiqEn := v.getLsbD 3
    vCbpr := v.getLsbD 4
    vEoim := v.getLsbD 9
    vbpr1 := v.extractLsb' 18 3
    vbpr0 := v.extractLsb' 21 3
    vpmr := v.extractLsb' 27 5 }

/-! ### Widths and lanes (R64-R72) -/

/-- The bytes a 1- or 2-byte access carries (R66, R67, R70). -/
def widthMask (size : BitVec 4) : Word := if size = 1#4 then 0xFF#32 else 0xFFFF#32

/-- The data a 1- or 2-byte write carries, zero-extended: `data[8*size-1:0]` (R70, R71, R83). -/
def carriedData (size : BitVec 4) (data : Word) : Word := data &&& widthMask size

/-- The result of a bus read of `size` bytes at `lane` whose containing word is `w`: the word itself for 4 bytes (R65),
the addressed lanes for 1 and 2 bytes (R66, R67), 0 for any other size (R68). -/
def sliceRead (size : BitVec 4) (lane : BitVec 2) (w : Word) : Word :=
  if size = 4#4 then w
  else if size = 1#4 ∨ size = 2#4 then (w >>> (8 * lane.toNat)) &&& widthMask size
  else 0#32

/-- The byte merge of a 1- or 2-byte write in mode MERGE (R70); lanes beyond byte 3 are dropped. -/
def mergeBytes (size : BitVec 4) (lane : BitVec 2) (data old : Word) : Word :=
  let mask := widthMask size <<< (8 * lane.toNat)
  (old &&& ~~~mask) ||| ((carriedData size data <<< (8 * lane.toNat)) &&& mask)

/-- The word a bus write hands to the register whose canonical word is `old`: the data itself for 4 bytes (R69), by
SUBWORD_WRITE_MODE for 1 and 2 bytes (R70, R71), and none for any other size (R72). -/
def storedWord (mode : SubwordWriteMode) (size : BitVec 4) (lane : BitVec 2) (data old : Word) : Option Word :=
  if size = 4#4 then some data
  else if size = 1#4 ∨ size = 2#4 then
    match mode with
    | .merge => some (mergeBytes size lane data old)
    | .rawForward => some (carriedData size data)
  else none

end Sys2Proof.Machine
end

