-- ==== Sys2Proof/Machine/Flags.lean ====
section
/-!
DEFINITION. The maintenance-status engine (R170-R182): every status flag of the block, as a function of the state that is
evaluated anew on every state and never stored (R40, R181).
-/
namespace Sys2Proof.Machine

/-- `Impl(i)`: slot i is implemented (R15). -/
def State.impl (s : State) (i : SlotIndex) : Bool := decide (i.val < s.cfg.nLr)

/-- The word whose bit i is `f i` for i in 0..15, and whose bits [31:16] are 0 (R170, R171). -/
def bitmap (f : SlotIndex → Bool) : Word :=
  (List.finRange 16).foldl (fun acc i => acc ||| bitAt (f i) i.val) 0#32

/-- `ELRSRbit(i)`: slot i is implemented and empty (R170). -/
def elrsrBit (s : State) (i : SlotIndex) : Bool := s.impl i && s.lr[i].state == .inactive

/-- `ELRSR0()`, the empty-list status (R170). -/
def elrsr0 (s : State) : Word := bitmap (elrsrBit s)

/-- ELRSR1, always 0 (R179). -/
def elrsr1 (_s : State) : Word := 0#32

/-- `EISRbit(i)`: slot i is implemented and its EOI flag is set (R171). -/
def eisrBit (s : State) (i : SlotIndex) : Bool := s.impl i && s.eoif[i]

/-- `EISR0()`, the EOI status (R171). -/
def eisr0 (s : State) : Word := bitmap (eisrBit s)

/-- EISR1, always 0 (R179). -/
def eisr1 (_s : State) : Word := 0#32

/-- NP, no implemented slot is pending (R172). -/
def npBit (s : State) : Bool :=
  s.hcr.npie && !(List.finRange 16).any fun i => s.impl i && s.lr[i].state.isPending

/-- The EOI summary condition; it has no enable (R173). -/
def eoiBit (s : State) : Bool := eisr0 s != 0#32

/-- `ValidCount`, the number of implemented slots that are not Inactive (R174). -/
def validCount (s : State) : Nat :=
  (List.finRange 16).countP fun i => s.impl i && s.lr[i].state != .inactive

/-- U, underflow: a level over the current state (R174). -/
def uBit (s : State) : Bool := s.hcr.uie && decide (validCount s < s.cfg.underflowLwm.val)

/-- LRENP, list-register-entry-not-present, from the PWS input (R175). -/
def lrenpBit (s : State) : Bool := s.hcr.lrenpie && s.pws

/-- VGrp0E (R176). -/
def vgrp0eBit (s : State) : Bool := s.hcr.vgrp0eie && s.vmcr.veng0

/-- VGrp0D (R176). -/
def vgrp0dBit (s : State) : Bool := s.hcr.vgrp0die && !s.vmcr.veng0

/-- VGrp1E (R177). -/
def vgrp1eBit (s : State) : Bool := s.hcr.vgrp1eie && s.vmcr.veng1

/-- VGrp1D (R177). -/
def vgrp1dBit (s : State) : Bool := s.hcr.vgrp1die && !s.vmcr.veng1

/-- `MISR()`, the maintenance interrupt status (R35, R178). -/
def misr (s : State) : Word :=
  bitAt (vgrp1dBit s) 7 ||| bitAt (vgrp1eBit s) 6 ||| bitAt (vgrp0dBit s) 5 ||| bitAt (vgrp0eBit s) 4 |||
    bitAt (npBit s) 3 ||| bitAt (lrenpBit s) 2 ||| bitAt (uBit s) 1 ||| bitAt (eoiBit s) 0

/-- MAINT, the maintenance interrupt line: a level, gated by HCR.En (R180). -/
def maint (s : State) : Bool := s.hcr.en && misr s != 0#32

end Sys2Proof.Machine
end

