-- ==== Sys2Proof/Machine/Priority.lean ====
section
/-!
DEFINITION. The priority/group engine (R190-R194): eligibility and the highest-priority eligible slot.
-/
namespace Sys2Proof.Machine

/-- `GroupEnabled(g)` (R190). -/
def groupEnabled (m : Vmcr) (g : Group) : Bool :=
  match g with
  | .group0 => m.veng0
  | .group1 => m.veng1

/-- `Eligible(i)` (R190). HCR.En, the binary points, VEOIM and APR play no part (R193, R194). -/
def eligible (s : State) (i : SlotIndex) : Bool :=
  s.impl i && s.lr[i].state.isPending && groupEnabled s.vmcr s.lr[i].grp &&
    decide (s.lr[i].pri < s.vmcr.vpmr)

/-- The better of the best slot so far and a slot of a higher index: the lower priority value wins, and the earlier slot
wins a tie (R191). -/
def betterSlot (s : State) (best : Option SlotIndex) (i : SlotIndex) : Option SlotIndex :=
  if eligible s i then
    match best with
    | none => some i
    | some b => if s.lr[i].pri < s.lr[b].pri then some i else some b
  else best

/-- `HPPI()`, the highest-priority eligible slot: lowest priority value, then lowest index (R191). -/
def hppi (s : State) : Option SlotIndex := (List.finRange 16).foldl (betterSlot s) none

end Sys2Proof.Machine
end

