-- ==== Sys2Proof/Machine/Ops.lean ====
section
/-!
DEFINITION. The shared operations of the meanings: the update of each state field, the window check's fault (the one
exception of the block), the bookkeeping of the active-priority words and the EOI flags (R144-R147), the writes of the
registers (R101-R119, R142), and the wrapping of a bus read or write around a register (R64-R72).
-/
namespace Sys2Proof.Machine

/-! ### One update per field -/

/-- Replace slot i. -/
def State.setSlot (s : State) (i : SlotIndex) (x : Slot) : State := { s with lr := s.lr.set i x }

/-- Set the EOI flag of slot i. -/
def State.setEoif (s : State) (i : SlotIndex) (b : Bool) : State := { s with eoif := s.eoif.set i b }

/-- Set the pending-without-slot latch. -/
def State.setPws (s : State) (b : Bool) : State := { s with pws := b }

/-- Replace HCR. -/
def State.setHcr (s : State) (h : Hcr) : State := { s with hcr := h }

/-- Replace VMCR. -/
def State.setVmcr (s : State) (m : Vmcr) : State := { s with vmcr := m }

/-- Replace active-priority word n. -/
def State.setApr (s : State) (n : AprIndex) (v : Word) : State := { s with apr := s.apr.set n v }

/-- Replace the requests not yet taken. -/
def State.setInbox (s : State) (rs : List Request) : State := { s with inbox := rs }

/-- Return a result to the requester of the current request. -/
def State.answer (s : State) (r : Result) : State := { s with result := some r }

/-! ### The fault -/

/-- Taking the block's one exception: `InvalidTarget(addr)` is reported to the requester in place of read data or write
completion, and nothing else changes (R220, R221). There is no return from it: the block takes no trap (R226). -/
def raiseInvalidTarget (addr : Addr) (s : State) : State := s.answer (.fault (.invalidTarget addr))

/-- The cause code of a result: 1 for InvalidTarget, 0 for no fault (R220). -/
def Result.faultCode (r : Result) : Nat :=
  match r with
  | .readData _ => 0
  | .writeDone => 0
  | .ackId _ => 0
  | .eventDone => 0
  | .fault _ => 1

/-! ### Active-priority bookkeeping (R146, R147) -/

/-- The word whose only 1 is the bit of priority p. -/
def priorityBit (p : Priority) : Word := 1#32 <<< p.toNat

/-- `AprRecord(p)`: APR[0][p] <- 1 (R146). -/
def aprRecord (p : Priority) (s : State) : State := s.setApr 0 (s.apr[0] ||| priorityBit p)

/-- APR[0][p] <- 0 (R147). -/
def aprClear (p : Priority) (s : State) : State := s.setApr 0 (s.apr[0] &&& ~~~priorityBit p)

/-- `AprRecordOnWrite(new)` (R146). -/
def aprRecordOnWrite (new : Slot) (s : State) : State :=
  if new.state.isActive then aprRecord new.pri s else s

/-- Some implemented slot is active at priority p (R147). -/
def activeAt (s : State) (p : Priority) : Bool :=
  (List.finRange 16).any fun j => s.impl j && s.lr[j].state.isActive && s.lr[j].pri == p

/-- A slot that was `old` and is now `new` gives up its old priority (R147). -/
def releases (old new : Slot) : Bool := old.state.isActive && (!new.state.isActive || new.pri != old.pri)

/-- `AprRelease(old, new)`, evaluated on the state that already holds `new` (R147). -/
def aprRelease (old new : Slot) (s : State) : State :=
  if releases old new && !activeAt s old.pri then aprClear old.pri s else s

/-! ### EOI flag bookkeeping (R144) -/

/-- `EoifOnWrite(i, old, new)`: a write clears the flag unless it writes Inactive over Inactive (R144). -/
def eoifOnWrite (i : SlotIndex) (old new : Slot) (s : State) : State :=
  if old.state == .inactive && new.state == .inactive then s else s.setEoif i false

/-! ### Register reads and writes (R102-R121, R142) -/

/-- `HcrWrite(v)` (R103). -/
def hcrWrite (v : Word) (s : State) : State := s.setHcr (hcrOfWord v)

/-- `VmcrWrite(v)` (R107). -/
def vmcrWrite (v : Word) (s : State) : State := s.setVmcr (vmcrOfWord v)

/-- APR[n] <- v (R119). -/
def aprWrite (n : AprIndex) (v : Word) (s : State) : State := s.setApr n v

/-- A write to a read-only or reserved register is ignored (R85, R105, R123). -/
def ignoredWrite (_v : Word) (s : State) : State := s

/-- `LrRead(n)` (R120). -/
def lrRead (n : SlotIndex) (s : State) : Word := if s.impl n then encodeLR s.lr[n] else 0#32

/-- The body of `LRWrite(i, v)` for an implemented slot: `old` is replaced by `new` (R142). -/
def replaceSlot (i : SlotIndex) (old new : Slot) (s : State) : State :=
  aprRecordOnWrite new (aprRelease old new (eoifOnWrite i old new (s.setSlot i new)))

/-- `LRWrite(i, v)` (R142). -/
def lrWrite (i : SlotIndex) (v : Word) (s : State) : State :=
  if s.impl i then replaceSlot i s.lr[i] (decodeLR v) s else s

/-! ### The wrapping of a bus access around a register (R64-R72) -/

/-- Finish a bus read of `size` bytes at `lane` from the register whose canonical word is `w`: only the result changes
(R65-R68, R75). -/
def answerRead (size : BitVec 4) (lane : BitVec 2) (w : Word) (s : State) : State :=
  s.answer (.readData (sliceRead size lane w))

/-- Carry out a bus write of `size` bytes at `lane` to the register whose canonical word is `old` and whose 32-bit write
is `write`, as one atomic step (R69-R72, R76). -/
def answerWrite (size : BitVec 4) (lane : BitVec 2) (data old : Word) (write : Word → State → State)
    (s : State) : State :=
  match storedWord s.cfg.subwordMode size lane data old with
  | some v => (write v s).answer .writeDone
  | none => s.answer .writeDone

/-! ### Guest events (R200-R206) -/

/-- The slot an ACK activates: Pending or ActiveAndPending becomes Active, its priority is recorded (R200). -/
def activateSlot (i : SlotIndex) (s : State) : State :=
  aprRecord s.lr[i].pri (s.setSlot i { s.lr[i] with state := .active })

/-- The slot an EOI of `vid` matches: the implemented active slot with that vid of lowest index (R202). -/
def eoiMatch (vid : IntId) (s : State) : Option SlotIndex :=
  (List.finRange 16).find? fun i => s.impl i && s.lr[i].state.isActive && s.lr[i].vid == vid

/-- The slot after an EOI: Active becomes Inactive, ActiveAndPending becomes Pending (R202). -/
def endedSlot (old : Slot) : Slot :=
  { old with state := if old.state = .active then .inactive else .pending }

/-- An EOI of the matched slot i sets its EOI flag when it is hardware-backed and releases its priority (R202). -/
def endSlot (i : SlotIndex) (s : State) : State :=
  let old := s.lr[i]
  let moved := s.setSlot i (endedSlot old)
  aprRelease old (endedSlot old) (if old.hw then moved.setEoif i true else moved)

/-- min(n + 1, 31) on the 5-bit counter (R203). -/
def saturatingSucc (n : BitVec 5) : BitVec 5 := if n = 31#5 then 31#5 else n + 1#5

/-- `EoiNoMatch()`: EOICount counts up and saturates at 31 (R203). -/
def eoiNoMatch (s : State) : State := s.setHcr { s.hcr with eoiCount := saturatingSucc s.hcr.eoiCount }

end Sys2Proof.Machine
end

