-- ==== Sys2Proof/Machine/ActivePriority.lean ====
section
/-!
DEFINITION. The active-priority word requests (R118, R119).
-/
namespace Sys2Proof.Machine

/-- `RD_APR` (R118). -/
def execRdApr (size : BitVec 4) (lane : BitVec 2) (n : AprIndex) (s : State) :
    Host.Outcome State Fault Refusal :=
  .next (answerRead size lane (s.apr[n]) s)

/-- `WR_APR` (R119). -/
def execWrApr (size : BitVec 4) (lane : BitVec 2) (n : AprIndex) (data : Word) (s : State) :
    Host.Outcome State Fault Refusal :=
  .next (answerWrite size lane data (s.apr[n]) (aprWrite n) s)

end Sys2Proof.Machine
end

