-- ==== Sys2Proof/Machine/Control.lean ====
section
/-!
DEFINITION. The hypervisor control, virtual type and virtual machine control requests (R102-R107).
-/
namespace Sys2Proof.Machine

/-- `RD_HCR` (R102). -/
def execRdHcr (size : BitVec 4) (lane : BitVec 2) (s : State) :
    Host.Outcome State Fault Refusal :=
  .next (answerRead size lane (hcrWord s.hcr) s)

/-- `WR_HCR` (R103). -/
def execWrHcr (size : BitVec 4) (lane : BitVec 2) (data : Word) (s : State) :
    Host.Outcome State Fault Refusal :=
  .next (answerWrite size lane data (hcrWord s.hcr) hcrWrite s)

/-- `RD_VTR` (R104). -/
def execRdVtr (size : BitVec 4) (lane : BitVec 2) (s : State) :
    Host.Outcome State Fault Refusal :=
  .next (answerRead size lane (vtrWord s.cfg) s)

/-- `WR_VTR` (R105): the register is read-only, so the write is ignored. -/
def execWrVtr (size : BitVec 4) (lane : BitVec 2) (data : Word) (s : State) :
    Host.Outcome State Fault Refusal :=
  .next (answerWrite size lane data (vtrWord s.cfg) ignoredWrite s)

/-- `RD_VMCR` (R106). -/
def execRdVmcr (size : BitVec 4) (lane : BitVec 2) (s : State) :
    Host.Outcome State Fault Refusal :=
  .next (answerRead size lane (vmcrWord s.vmcr) s)

/-- `WR_VMCR` (R107). -/
def execWrVmcr (size : BitVec 4) (lane : BitVec 2) (data : Word) (s : State) :
    Host.Outcome State Fault Refusal :=
  .next (answerWrite size lane data (vmcrWord s.vmcr) vmcrWrite s)

end Sys2Proof.Machine
end

