-- ==== Sys2Proof/Machine/Events.lean ====
section
/-!
DEFINITION. The four input events (R200-R206).
-/
namespace Sys2Proof.Machine

/-- `EV_ACK` (R200, R201): the highest-priority eligible slot becomes Active and its vid is returned; with no eligible
slot nothing changes and 1023 is returned. -/
def execEvAck (s : State) : Host.Outcome State Fault Refusal :=
  match hppi s with
  | none => .next (s.answer (.ackId 1023#10))
  | some i => .next ((activateSlot i s).answer (.ackId s.lr[i].vid))

/-- `EV_EOI` (R202, R203). -/
def execEvEoi (vid : IntId) (s : State) : Host.Outcome State Fault Refusal :=
  match eoiMatch vid s with
  | none => .next ((eoiNoMatch s).answer .eventDone)
  | some i => .next ((endSlot i s).answer .eventDone)

/-- `EV_DEACT` (R204): the EOI flag of an implemented slot is cleared. -/
def execEvDeact (index : SlotIndex) (s : State) : Host.Outcome State Fault Refusal :=
  .next ((if s.impl index then s.setEoif index false else s).answer .eventDone)

/-- `EV_SETPWS` (R206). -/
def execEvSetPws (b : Bool) (s : State) : Host.Outcome State Fault Refusal :=
  .next ((s.setPws b).answer .eventDone)

end Sys2Proof.Machine
end

