-- ==== Sys2Proof/Machine/ListRegister.lean ====
section
/-!
DEFINITION. The list-register requests (R120, R121).
-/
namespace Sys2Proof.Machine

/-- `RD_LR` (R120). -/
def execRdLr (size : BitVec 4) (lane : BitVec 2) (n : SlotIndex) (s : State) :
    Host.Outcome State Fault Refusal :=
  .next (answerRead size lane (lrRead n s) s)

/-- `WR_LR` (R121, R142). -/
def execWrLr (size : BitVec 4) (lane : BitVec 2) (n : SlotIndex) (data : Word) (s : State) :
    Host.Outcome State Fault Refusal :=
  .next (answerWrite size lane data (lrRead n s) (lrWrite n) s)

end Sys2Proof.Machine
end

