-- ==== Sys2Proof/Machine/Reserved.lean ====
section
/-!
DEFINITION. The reserved-offset requests (R122, R123): read-as-zero, write-ignored. Their word offset plays no part.
-/
namespace Sys2Proof.Machine

/-- `RD_RSVD` (R122). -/
def execRdRsvd (size : BitVec 4) (lane : BitVec 2) (s : State) :
    Host.Outcome State Fault Refusal :=
  .next (answerRead size lane (0#32) s)

/-- `WR_RSVD` (R123). -/
def execWrRsvd (size : BitVec 4) (lane : BitVec 2) (data : Word) (s : State) :
    Host.Outcome State Fault Refusal :=
  .next (answerWrite size lane data (0#32) ignoredWrite s)

end Sys2Proof.Machine
end

