-- ==== Sys2Proof/Machine/Status.lean ====
section
/-!
DEFINITION. The maintenance status requests (R108-R117): the registers are derived and read-only.
-/
namespace Sys2Proof.Machine

/-- `RD_MISR` (R108). -/
def execRdMisr (size : BitVec 4) (lane : BitVec 2) (s : State) :
    Host.Outcome State Fault Refusal :=
  .next (answerRead size lane (misr s) s)

/-- `WR_MISR` (R109): the register is read-only, so the write is ignored. -/
def execWrMisr (size : BitVec 4) (lane : BitVec 2) (data : Word) (s : State) :
    Host.Outcome State Fault Refusal :=
  .next (answerWrite size lane data (misr s) ignoredWrite s)

/-- `RD_EISR0` (R110). -/
def execRdEisr0 (size : BitVec 4) (lane : BitVec 2) (s : State) :
    Host.Outcome State Fault Refusal :=
  .next (answerRead size lane (eisr0 s) s)

/-- `WR_EISR0` (R111): the register is read-only, so the write is ignored. -/
def execWrEisr0 (size : BitVec 4) (lane : BitVec 2) (data : Word) (s : State) :
    Host.Outcome State Fault Refusal :=
  .next (answerWrite size lane data (eisr0 s) ignoredWrite s)

/-- `RD_EISR1` (R112). -/
def execRdEisr1 (size : BitVec 4) (lane : BitVec 2) (s : State) :
    Host.Outcome State Fault Refusal :=
  .next (answerRead size lane (eisr1 s) s)

/-- `WR_EISR1` (R113): the register is read-only, so the write is ignored. -/
def execWrEisr1 (size : BitVec 4) (lane : BitVec 2) (data : Word) (s : State) :
    Host.Outcome State Fault Refusal :=
  .next (answerWrite size lane data (eisr1 s) ignoredWrite s)

/-- `RD_ELRSR0` (R114). -/
def execRdElrsr0 (size : BitVec 4) (lane : BitVec 2) (s : State) :
    Host.Outcome State Fault Refusal :=
  .next (answerRead size lane (elrsr0 s) s)

/-- `WR_ELRSR0` (R115): the register is read-only, so the write is ignored. -/
def execWrElrsr0 (size : BitVec 4) (lane : BitVec 2) (data : Word) (s : State) :
    Host.Outcome State Fault Refusal :=
  .next (answerWrite size lane data (elrsr0 s) ignoredWrite s)

/-- `RD_ELRSR1` (R116). -/
def execRdElrsr1 (size : BitVec 4) (lane : BitVec 2) (s : State) :
    Host.Outcome State Fault Refusal :=
  .next (answerRead size lane (elrsr1 s) s)

/-- `WR_ELRSR1` (R117): the register is read-only, so the write is ignored. -/
def execWrElrsr1 (size : BitVec 4) (lane : BitVec 2) (data : Word) (s : State) :
    Host.Outcome State Fault Refusal :=
  .next (answerWrite size lane data (elrsr1 s) ignoredWrite s)

end Sys2Proof.Machine
end

