-- ==== Sys2Proof/Machine/Dispatch.lean ====
section
/-!
DEFINITION. The meaning of a decoded request: one arm per row of spec/opcode_table.json.
-/
namespace Sys2Proof.Machine

def exec (i : Instr) (s : State) : Host.Outcome State Fault Refusal :=
  match i with
  | .evAck => Sys2Proof.Machine.execEvAck s
  | .evEoi vid => Sys2Proof.Machine.execEvEoi vid s
  | .evDeact index => Sys2Proof.Machine.execEvDeact index s
  | .evSetPws b => Sys2Proof.Machine.execEvSetPws b s
  | .rdHcr size lane => Sys2Proof.Machine.execRdHcr size lane s
  | .wrHcr size lane data => Sys2Proof.Machine.execWrHcr size lane data s
  | .rdVtr size lane => Sys2Proof.Machine.execRdVtr size lane s
  | .wrVtr size lane data => Sys2Proof.Machine.execWrVtr size lane data s
  | .rdVmcr size lane => Sys2Proof.Machine.execRdVmcr size lane s
  | .wrVmcr size lane data => Sys2Proof.Machine.execWrVmcr size lane data s
  | .rdMisr size lane => Sys2Proof.Machine.execRdMisr size lane s
  | .wrMisr size lane data => Sys2Proof.Machine.execWrMisr size lane data s
  | .rdEisr0 size lane => Sys2Proof.Machine.execRdEisr0 size lane s
  | .wrEisr0 size lane data => Sys2Proof.Machine.execWrEisr0 size lane data s
  | .rdEisr1 size lane => Sys2Proof.Machine.execRdEisr1 size lane s
  | .wrEisr1 size lane data => Sys2Proof.Machine.execWrEisr1 size lane data s
  | .rdElrsr0 size lane => Sys2Proof.Machine.execRdElrsr0 size lane s
  | .wrElrsr0 size lane data => Sys2Proof.Machine.execWrElrsr0 size lane data s
  | .rdElrsr1 size lane => Sys2Proof.Machine.execRdElrsr1 size lane s
  | .wrElrsr1 size lane data => Sys2Proof.Machine.execWrElrsr1 size lane data s
  | .rdApr size lane n => Sys2Proof.Machine.execRdApr size lane n s
  | .wrApr size lane n data => Sys2Proof.Machine.execWrApr size lane n data s
  | .rdLr size lane n => Sys2Proof.Machine.execRdLr size lane n s
  | .wrLr size lane n data => Sys2Proof.Machine.execWrLr size lane n data s
  | .rdRsvd size lane _ => Sys2Proof.Machine.execRdRsvd size lane s
  | .wrRsvd size lane _ data => Sys2Proof.Machine.execWrRsvd size lane data s

end Sys2Proof.Machine
end

