-- ==== Sys2Proof/WellFormed.lean ====
section
/-!
DEFINITION. Which terms of `Instr` stand for a request: the catch-all rows `RD_RSVD` and `WR_RSVD` hold only the word
offsets that the register map of R82 marks reserved. Every other operand fills its field at every value.
-/
namespace Sys2Proof

/-- The word offsets R82 marks reserved (R122 lists them): 0x00C, 0x014..0x01C, 0x028..0x02C, 0x038..0x0EC and
0x140..0xFFC. The argument is bits [11:2] of the offset. -/
def reservedWoff (woff : BitVec 10) : Bool :=
  let off := 4 * woff.toNat
  off == 0x00C || (0x014 ≤ off && off ≤ 0x01C) || (0x028 ≤ off && off ≤ 0x02C) ||
    (0x038 ≤ off && off ≤ 0x0EC) || 0x140 ≤ off

/-- A decoded request that some descriptor encodes (R82, R84). -/
def Instr.wellFormed (i : Instr) : Bool :=
  match i with
  | .evAck => true
  | .evEoi _ => true
  | .evDeact _ => true
  | .evSetPws _ => true
  | .rdHcr _ _ => true
  | .wrHcr _ _ _ => true
  | .rdVtr _ _ => true
  | .wrVtr _ _ _ => true
  | .rdVmcr _ _ => true
  | .wrVmcr _ _ _ => true
  | .rdMisr _ _ => true
  | .wrMisr _ _ _ => true
  | .rdEisr0 _ _ => true
  | .wrEisr0 _ _ _ => true
  | .rdEisr1 _ _ => true
  | .wrEisr1 _ _ _ => true
  | .rdElrsr0 _ _ => true
  | .wrElrsr0 _ _ _ => true
  | .rdElrsr1 _ _ => true
  | .wrElrsr1 _ _ _ => true
  | .rdApr _ _ _ => true
  | .wrApr _ _ _ _ => true
  | .rdLr _ _ _ => true
  | .wrLr _ _ _ _ => true
  | .rdRsvd _ _ woff => reservedWoff woff
  | .wrRsvd _ _ woff _ => reservedWoff woff

end Sys2Proof
end

