-- ==== Sys2Proof/Decode.lean ====
section
/-!
DEFINITION. Decoding a request `(desc, data)` (R80-R87), total on every descriptor and rejecting the reserved ones by
name, and the encoder written from the same tables; then the opcode table as rows, and the host's word interface.
-/
namespace Sys2Proof

/-! ### The descriptor's fields (R81) -/

/-- KIND, bits [17:16]: 0 bus read, 1 bus write, 2 event, 3 reserved (R81). -/
def kindField (desc : Descriptor) : BitVec 2 := desc.extractLsb' 16 2

/-- SIZE, bits [15:12]: the access size in bytes (R81). -/
def sizeField (desc : Descriptor) : BitVec 4 := desc.extractLsb' 12 4

/-- OFF[11:2], the word offset divided by 4 (R63, R81). -/
def woffField (desc : Descriptor) : BitVec 10 := desc.extractLsb' 2 10

/-- OFF[1:0], the byte lane (R63, R81). -/
def laneField (desc : Descriptor) : BitVec 2 := desc.extractLsb' 0 2

/-- An event's CODE, bits [3:0] (R81). -/
def codeField (desc : Descriptor) : BitVec 4 := desc.extractLsb' 0 4

/-- An event's bits [11:4], which must be 0 (R81, R86). -/
def eventZeroField (desc : Descriptor) : BitVec 8 := desc.extractLsb' 4 8

/-! ### The register map (R82) -/

/-- The register at a word offset, given as bits [11:2] of the offset (R82). -/
def regAt (woff : BitVec 10) : Reg :=
  if woff = 0x000#10 then .hcr
  else if woff = 0x001#10 then .vtr
  else if woff = 0x002#10 then .vmcr
  else if woff = 0x004#10 then .misr
  else if woff = 0x008#10 then .eisr0
  else if woff = 0x009#10 then .eisr1
  else if woff = 0x00C#10 then .elrsr0
  else if woff = 0x00D#10 then .elrsr1
  else if woff.extractLsb' 2 8 = 0x0F#8 then .apr (woff.extractLsb' 0 2).toFin
  else if woff.extractLsb' 4 6 = 0x04#6 then .lr (woff.extractLsb' 0 4).toFin
  else .rsvd woff

/-- Bits [11:2] of a register's word offset (R82, R88). -/
def regWoff (r : Reg) : BitVec 10 :=
  match r with
  | .hcr => 0x000#10
  | .vtr => 0x001#10
  | .vmcr => 0x002#10
  | .misr => 0x004#10
  | .eisr0 => 0x008#10
  | .eisr1 => 0x009#10
  | .elrsr0 => 0x00C#10
  | .elrsr1 => 0x00D#10
  | .apr n => 0x0F#8 ++ BitVec.ofNat 2 n.val
  | .lr n => 0x04#6 ++ BitVec.ofNat 4 n.val
  | .rsvd woff => woff

/-! ### Decoding (R84) -/

/-- The bus-read request of a register. -/
def readInstr (r : Reg) (size : BitVec 4) (lane : BitVec 2) : Instr :=
  match r with
  | .hcr => .rdHcr size lane
  | .vtr => .rdVtr size lane
  | .vmcr => .rdVmcr size lane
  | .misr => .rdMisr size lane
  | .eisr0 => .rdEisr0 size lane
  | .eisr1 => .rdEisr1 size lane
  | .elrsr0 => .rdElrsr0 size lane
  | .elrsr1 => .rdElrsr1 size lane
  | .apr n => .rdApr size lane n
  | .lr n => .rdLr size lane n
  | .rsvd woff => .rdRsvd size lane woff

/-- The bus-write request of a register. -/
def writeInstr (r : Reg) (size : BitVec 4) (lane : BitVec 2) (data : Word) : Instr :=
  match r with
  | .hcr => .wrHcr size lane data
  | .vtr => .wrVtr size lane data
  | .vmcr => .wrVmcr size lane data
  | .misr => .wrMisr size lane data
  | .eisr0 => .wrEisr0 size lane data
  | .eisr1 => .wrEisr1 size lane data
  | .elrsr0 => .wrElrsr0 size lane data
  | .elrsr1 => .wrElrsr1 size lane data
  | .apr n => .wrApr size lane n data
  | .lr n => .wrLr size lane n data
  | .rsvd woff => .wrRsvd size lane woff data

/-- The input event of a code, its argument taken from `data` with the upper bits ignored (R81, R83). -/
def decodeEvent (code : BitVec 4) (data : Word) : Except DecodeError Instr :=
  if code = 0#4 then .ok .evAck
  else if code = 1#4 then .ok (.evEoi (data.extractLsb' 0 10))
  else if code = 2#4 then .ok (.evDeact (data.extractLsb' 0 4).toFin)
  else if code = 3#4 then .ok (.evSetPws (data.getLsbD 0))
  else .error .reservedEventCode

/-- The decoder of R84, total on every descriptor; the reserved descriptors of R86 are rejected by name. -/
def decode (desc : Descriptor) (data : Word) : Except DecodeError Instr :=
  if kindField desc = 2#2 then
    if eventZeroField desc = 0#8 then decodeEvent (codeField desc) data else .error .eventOffsetNotZero
  else if kindField desc = 3#2 then .error .reservedKind
  else if kindField desc = 0#2 then
    .ok (readInstr (regAt (woffField desc)) (sizeField desc) (laneField desc))
  else .ok (writeInstr (regAt (woffField desc)) (sizeField desc) (laneField desc) data)

/-! ### Encoding (R81, R83, R88) -/

/-- A BUS descriptor from its fields (R81). -/
def busDesc (kind : BitVec 2) (size : BitVec 4) (woff : BitVec 10) (lane : BitVec 2) : Descriptor :=
  kind ++ size ++ woff ++ lane

/-- The bus-read request of a register, with operand 0 (R81). -/
def encodeRead (r : Reg) (size : BitVec 4) (lane : BitVec 2) : Descriptor × Word :=
  (busDesc 0#2 size (regWoff r) lane, 0#32)

/-- The bus-write request of a register (R81). -/
def encodeWrite (r : Reg) (size : BitVec 4) (lane : BitVec 2) (data : Word) : Descriptor × Word :=
  (busDesc 1#2 size (regWoff r) lane, data)

/-- The descriptor and operand of a decoded request. SIZE is written 0 in an event, and the operand of a request that
ignores it is 0 (R81, R83, R88). -/
def encode (i : Instr) : Descriptor × Word :=
  match i with
  | .evAck => (0x20000#18, 0#32)
  | .evEoi vid => (0x20001#18, vid.setWidth 32)
  | .evDeact index => (0x20002#18, BitVec.ofNat 32 index.val)
  | .evSetPws b => (0x20003#18, (BitVec.ofBool b).setWidth 32)
  | .rdHcr size lane => encodeRead .hcr size lane
  | .wrHcr size lane data => encodeWrite .hcr size lane data
  | .rdVtr size lane => encodeRead .vtr size lane
  | .wrVtr size lane data => encodeWrite .vtr size lane data
  | .rdVmcr size lane => encodeRead .vmcr size lane
  | .wrVmcr size lane data => encodeWrite .vmcr size lane data
  | .rdMisr size lane => encodeRead .misr size lane
  | .wrMisr size lane data => encodeWrite .misr size lane data
  | .rdEisr0 size lane => encodeRead .eisr0 size lane
  | .wrEisr0 size lane data => encodeWrite .eisr0 size lane data
  | .rdEisr1 size lane => encodeRead .eisr1 size lane
  | .wrEisr1 size lane data => encodeWrite .eisr1 size lane data
  | .rdElrsr0 size lane => encodeRead .elrsr0 size lane
  | .wrElrsr0 size lane data => encodeWrite .elrsr0 size lane data
  | .rdElrsr1 size lane => encodeRead .elrsr1 size lane
  | .wrElrsr1 size lane data => encodeWrite .elrsr1 size lane data
  | .rdApr size lane n => encodeRead (.apr n) size lane
  | .wrApr size lane n data => encodeWrite (.apr n) size lane data
  | .rdLr size lane n => encodeRead (.lr n) size lane
  | .wrLr size lane n data => encodeWrite (.lr n) size lane data
  | .rdRsvd size lane woff => encodeRead (.rsvd woff) size lane
  | .wrRsvd size lane woff data => encodeWrite (.rsvd woff) size lane data

/-! ### The opcode table (R84) -/

/-- The row of spec/opcode_table.json a decoded request belongs to. -/
def opcodeRow (i : Instr) : OpcodeRow :=
  match i with
  | .evAck => ⟨"EV_ACK", 0x20000#18, 0x30FFF#18⟩
  | .evEoi _ => ⟨"EV_EOI", 0x20001#18, 0x30FFF#18⟩
  | .evDeact _ => ⟨"EV_DEACT", 0x20002#18, 0x30FFF#18⟩
  | .evSetPws _ => ⟨"EV_SETPWS", 0x20003#18, 0x30FFF#18⟩
  | .rdHcr _ _ => ⟨"RD_HCR", 0x00000#18, 0x30FFC#18⟩
  | .wrHcr _ _ _ => ⟨"WR_HCR", 0x10000#18, 0x30FFC#18⟩
  | .rdVtr _ _ => ⟨"RD_VTR", 0x00004#18, 0x30FFC#18⟩
  | .wrVtr _ _ _ => ⟨"WR_VTR", 0x10004#18, 0x30FFC#18⟩
  | .rdVmcr _ _ => ⟨"RD_VMCR", 0x00008#18, 0x30FFC#18⟩
  | .wrVmcr _ _ _ => ⟨"WR_VMCR", 0x10008#18, 0x30FFC#18⟩
  | .rdMisr _ _ => ⟨"RD_MISR", 0x00010#18, 0x30FFC#18⟩
  | .wrMisr _ _ _ => ⟨"WR_MISR", 0x10010#18, 0x30FFC#18⟩
  | .rdEisr0 _ _ => ⟨"RD_EISR0", 0x00020#18, 0x30FFC#18⟩
  | .wrEisr0 _ _ _ => ⟨"WR_EISR0", 0x10020#18, 0x30FFC#18⟩
  | .rdEisr1 _ _ => ⟨"RD_EISR1", 0x00024#18, 0x30FFC#18⟩
  | .wrEisr1 _ _ _ => ⟨"WR_EISR1", 0x10024#18, 0x30FFC#18⟩
  | .rdElrsr0 _ _ => ⟨"RD_ELRSR0", 0x00030#18, 0x30FFC#18⟩
  | .wrElrsr0 _ _ _ => ⟨"WR_ELRSR0", 0x10030#18, 0x30FFC#18⟩
  | .rdElrsr1 _ _ => ⟨"RD_ELRSR1", 0x00034#18, 0x30FFC#18⟩
  | .wrElrsr1 _ _ _ => ⟨"WR_ELRSR1", 0x10034#18, 0x30FFC#18⟩
  | .rdApr _ _ _ => ⟨"RD_APR", 0x000F0#18, 0x30FF0#18⟩
  | .wrApr _ _ _ _ => ⟨"WR_APR", 0x100F0#18, 0x30FF0#18⟩
  | .rdLr _ _ _ => ⟨"RD_LR", 0x00100#18, 0x30FC0#18⟩
  | .wrLr _ _ _ _ => ⟨"WR_LR", 0x10100#18, 0x30FC0#18⟩
  | .rdRsvd _ _ _ => ⟨"RD_RSVD", 0x00000#18, 0x30000#18⟩
  | .wrRsvd _ _ _ _ => ⟨"WR_RSVD", 0x10000#18, 0x30000#18⟩

/-- The rows in R84's matching order: the events, the registers, then the two catch-all rows. The operands written here
play no part. -/
def opcodeTable : List OpcodeRow :=
  [opcodeRow .evAck, opcodeRow (.evEoi 0), opcodeRow (.evDeact 0), opcodeRow (.evSetPws false),
   opcodeRow (.rdHcr 0 0), opcodeRow (.wrHcr 0 0 0), opcodeRow (.rdVtr 0 0), opcodeRow (.wrVtr 0 0 0),
   opcodeRow (.rdVmcr 0 0), opcodeRow (.wrVmcr 0 0 0), opcodeRow (.rdMisr 0 0), opcodeRow (.wrMisr 0 0 0),
   opcodeRow (.rdEisr0 0 0), opcodeRow (.wrEisr0 0 0 0), opcodeRow (.rdEisr1 0 0), opcodeRow (.wrEisr1 0 0 0)] ++
  [opcodeRow (.rdElrsr0 0 0), opcodeRow (.wrElrsr0 0 0 0), opcodeRow (.rdElrsr1 0 0), opcodeRow (.wrElrsr1 0 0 0),
   opcodeRow (.rdApr 0 0 0), opcodeRow (.wrApr 0 0 0 0), opcodeRow (.rdLr 0 0 0), opcodeRow (.wrLr 0 0 0 0),
   opcodeRow (.rdRsvd 0 0 0), opcodeRow (.wrRsvd 0 0 0 0)]

/-- A descriptor matches a row. -/
def OpcodeRow.fits (row : OpcodeRow) (desc : Descriptor) : Bool := desc &&& row.mask == row.pattern

/-! ### The host's word interface (log 4)

An instruction word holds the descriptor in bits [17:0], zeros in bits [23:18] and the operand `data` in bits [55:24]. -/

/-- The descriptor an instruction word holds. A word with a bit set in [23:18] holds no descriptor and stands for the
reserved descriptor 0x30000 (R86). -/
def tableDescriptor (nbits w : Nat) : Descriptor :=
  if w % 2 ^ nbits / 2 ^ 18 % 2 ^ 6 = 0 then BitVec.ofNat 18 (w % 2 ^ nbits) else 0x30000#18

/-- The operand an instruction word holds. -/
def tableOperand (nbits w : Nat) : Word := BitVec.ofNat 32 (w % 2 ^ nbits / 2 ^ 24)

/-- The instruction the decoder reads from an instruction word of `nbits` bits, every higher bit being 0. -/
def decodeTableWord (nbits w : Nat) : Option Instr :=
  match decode (tableDescriptor nbits w) (tableOperand nbits w) with
  | .ok i => some i
  | .error _ => none

end Sys2Proof
end

