-- ==== Sys2Proof/Machine/Fetch.lean ====
section
/-!
DEFINITION. How a presented request becomes a descriptor and an operand: the window check and the descriptor of a bus
request (R60-R64, R80, R81).
-/
namespace Sys2Proof.Machine

/-- The address lies in the window [BASE, BASE + 0x10000) (R61). -/
def inWindow (c : Config) (addr : Addr) : Bool :=
  decide (c.base.toNat ≤ addr.toNat) && decide (addr.toNat < c.base.toNat + 0x10000)

/-- The address range the block exposes to its device-bus adapter: first address and extent (R231). No rule reads it. -/
def exposedRange (c : Config) : Nat × Nat := (c.base.toNat, 0x10000)

/-- The 12-bit offset of an address in the window: addr[11:0] (R62). -/
def offsetOf (addr : Addr) : BitVec 12 := addr.extractLsb' 0 12

/-- The SIZE field of an access of `size` bytes: a size of 16 or more is encoded as 0 (R81). -/
def encodeSize (size : Nat) : BitVec 4 := if size < 16 then BitVec.ofNat 4 size else 0#4

/-- The descriptor and operand of a presented request, or the fault its window check reports (R61, R80, R81). The window
check comes first, whatever the width (R223). -/
def present (c : Config) (r : Request) : Except Fault (Descriptor × Word) :=
  match r with
  | .busRead addr size =>
    if inWindow c addr then .ok (0#2 ++ encodeSize size ++ offsetOf addr, 0#32)
    else .error (.invalidTarget addr)
  | .busWrite addr size data =>
    if inWindow c addr then .ok (1#2 ++ encodeSize size ++ offsetOf addr, data)
    else .error (.invalidTarget addr)
  | .described desc data => .ok (desc, data)

end Sys2Proof.Machine
end

