-- ==== Sys2Proof/Machine/Run.lean ====
section
/-!
DEFINITION. Carrying out one request: the window check, the decoder, the meaning (R61, R80, R84, R223); and the request
queue (R76, R77).
-/
namespace Sys2Proof.Machine

/-- Carry out a described request, or refuse a reserved descriptor (R84, R86). -/
def runDescribed (desc : Descriptor) (data : Word) (s : State) : Host.Outcome State Fault Refusal :=
  match decode desc data with
  | .ok i => exec i s
  | .error why => .refused (.reservedDescriptor desc why)

/-- Carry out one presented request: the window check, then the decoded instruction (R61, R80, R223). A failed window
check is a next state whose result is the fault (R220, R221; log 6). -/
def runRequest (r : Request) (s : State) : Host.Outcome State Fault Refusal :=
  match present s.cfg r with
  | .ok presented => runDescribed presented.1 presented.2 s
  | .error (.invalidTarget addr) => .next (raiseInvalidTarget addr s)

/-- Take the oldest request not yet taken and carry it out. With no request issued the block does nothing (log 5). -/
def runNext (s : State) : Host.Outcome State Fault Refusal :=
  match s.inbox with
  | [] => .next s
  | r :: rest => runRequest r (s.setInbox rest)

/-- Issue the request an instruction word holds, ahead of the requests not yet taken (log 4). -/
def issueWord (s : State) (nbits w : Nat) : State :=
  s.setInbox (.described (tableDescriptor nbits w) (tableOperand nbits w) :: s.inbox)

end Sys2Proof.Machine
end

