-- ==== Sys2Proof/Machine/Step.lean ====
section
/-!
DEFINITION. One step of the block, and the host's way to place an instruction.
-/
namespace Sys2Proof.Machine

/-- One step carries out one atomic request: a bus read, a bus write or an input event (R6, R76). -/
def step (s : State) : Host.Outcome State Fault Refusal := runNext s

/-- The state whose next step takes the request an instruction word holds (log 4). -/
def State.withFetchWord (s : State) (nbits w : Nat) : State := issueWord s nbits w

end Sys2Proof.Machine
end

