-- ==== Sys2Proof/Machine/Assembler.lean ====
section
/-!
DEFINITION. The assembler of R88 on abstract syntax, the text of a request, and the pseudo-requests of R89.
-/
namespace Sys2Proof.Machine

/-- The descriptor and operand of a request (R88). -/
def assemble (a : Asm) : Descriptor × Word :=
  match a with
  | .rd size off => (0#2 ++ encodeSize size ++ off, 0#32)
  | .wr size off data => (1#2 ++ encodeSize size ++ off, data)
  | .ack => (0x20000#18, 0#32)
  | .eoi vid => (0x20001#18, vid.setWidth 32)
  | .deact index => (0x20002#18, BitVec.ofNat 32 index.val)
  | .pws b => (0x20003#18, (BitVec.ofBool b).setWidth 32)

/-- The presented form of an assembled request. -/
def assembledRequest (a : Asm) : Request := .described (assemble a).1 (assemble a).2

/-- The offset a register's name stands for, `+k` naming a byte of it (R88). -/
def regOffset (r : Reg) (k : BitVec 2) : BitVec 12 := regWoff r ++ k

/-- A number in hexadecimal, with the prefix 0x. -/
def hexText (n : Nat) : String := "0x" ++ String.ofList (Nat.toDigits 16 n)

/-- The text of a request (R88). -/
def asmText (a : Asm) : String :=
  match a with
  | .rd size off => "rd." ++ toString size ++ " " ++ hexText off.toNat
  | .wr size off data => "wr." ++ toString size ++ " " ++ hexText off.toNat ++ ", " ++ hexText data.toNat
  | .ack => "ack"
  | .eoi vid => "eoi " ++ toString vid.toNat
  | .deact index => "deact " ++ toString index.val
  | .pws b => "pws " ++ (if b then "1" else "0")

/-- `wr.4 LRn, data`. -/
def writeSlotAsm (n : SlotIndex) (data : Word) : Asm := .wr 4 (regOffset (.lr n) 0) data

/-- `inject n, vid, pri, grp` (R89). -/
def injectAsm (n : SlotIndex) (vid : IntId) (pri : Priority) (grp : Group) : Asm :=
  writeSlotAsm n (encodeLR { vid := vid, pid := 0, hw := false, grp := grp, pri := pri, state := .pending })

/-- `inject.hw n, vid, pid, pri, grp` (R89). -/
def injectHwAsm (n : SlotIndex) (vid pid : IntId) (pri : Priority) (grp : Group) : Asm :=
  writeSlotAsm n (encodeLR { vid := vid, pid := pid, hw := true, grp := grp, pri := pri, state := .pending })

/-- `withdraw n` (R89). -/
def withdrawAsm (n : SlotIndex) : Asm := writeSlotAsm n 0#32

/-- The first request of `setstate n, s` (R89). -/
def setStateReadAsm (n : SlotIndex) : Asm := .rd 4 (regOffset (.lr n) 0)

/-- The second request of `setstate n, s`, made from the value the first one returned; the two are not atomic together
(R89, R248). -/
def setStateWriteAsm (n : SlotIndex) (value : Word) (st : SlotState) : Asm :=
  writeSlotAsm n ((value &&& ~~~0x30000000#32) ||| (st.code.setWidth 32 <<< 28))

end Sys2Proof.Machine
end

