-- ==== Sys2Proof/Machine/Bus.lean ====
section
/-!
DEFINITION. The bus requests as R60-R72, R100 and R101 state them, on addresses, sizes and word offsets, with no
descriptor and no decoder. The machine's step does not use these definitions; statements compare the step with them.
-/
namespace Sys2Proof.Machine

/-- `woff`, the word offset (R63). -/
def wordOffset (addr : Addr) : BitVec 12 := offsetOf addr &&& 0xFFC#12

/-- `lane`, the byte lane (R63). -/
def byteLane (addr : Addr) : Nat := addr.toNat % 4

/-- `RegRead32(woff)` (R100). -/
def regRead32 (woff : BitVec 12) (s : State) : Word :=
  let off := woff.toNat
  if off = 0x000 then hcrWord s.hcr
  else if off = 0x004 then vtrWord s.cfg
  else if off = 0x008 then vmcrWord s.vmcr
  else if off = 0x010 then misr s
  else if off = 0x020 then eisr0 s
  else if off = 0x024 then 0#32
  else if off = 0x030 then elrsr0 s
  else if off = 0x034 then 0#32
  else if 0x0F0 ≤ off ∧ off ≤ 0x0FC then s.apr[(off - 0x0F0) / 4 % 4]
  else if 0x100 ≤ off ∧ off ≤ 0x13C then lrRead (Fin.ofNat 16 ((off - 0x100) / 4)) s
  else 0#32

/-- `RegWrite32(woff, v)` (R101). -/
def regWrite32 (woff : BitVec 12) (v : Word) (s : State) : State :=
  let off := woff.toNat
  if off = 0x000 then hcrWrite v s
  else if off = 0x008 then vmcrWrite v s
  else if 0x0F0 ≤ off ∧ off ≤ 0x0FC then aprWrite (Fin.ofNat 4 ((off - 0x0F0) / 4)) v s
  else if 0x100 ≤ off ∧ off ≤ 0x13C then lrWrite (Fin.ofNat 16 ((off - 0x100) / 4)) v s
  else s

/-- `BusRead(addr, size)`: the result goes to the requester and nothing else changes (R61, R65-R68, R75). -/
def busRead (addr : Addr) (size : Nat) (s : State) : State :=
  if inWindow s.cfg addr then
    let word := regRead32 (wordOffset addr) s
    s.answer (.readData
      (if size = 1 then (word >>> (8 * byteLane addr)) &&& 0xFF#32
       else if size = 2 then (word >>> (8 * byteLane addr)) &&& 0xFFFF#32
       else if size = 4 then word
       else 0#32))
  else raiseInvalidTarget addr s

/-- The sub-word write of `BusWrite(addr, size, data)`, m being the mask of the carried bytes (R70, R71). -/
def subwordWrite (addr : Addr) (m data : Word) (s : State) : State :=
  match s.cfg.subwordMode with
  | .merge =>
    let mask := m <<< (8 * byteLane addr)
    let old := regRead32 (wordOffset addr) s
    regWrite32 (wordOffset addr) ((old &&& ~~~mask) ||| (((data &&& m) <<< (8 * byteLane addr)) &&& mask)) s
  | .rawForward => regWrite32 (wordOffset addr) (data &&& m) s

/-- `BusWrite(addr, size, data)` (R61, R69-R72). -/
def busWrite (addr : Addr) (size : Nat) (data : Word) (s : State) : State :=
  if inWindow s.cfg addr then
    (if size = 1 then subwordWrite addr 0xFF#32 data s
     else if size = 2 then subwordWrite addr 0xFFFF#32 data s
     else if size = 4 then regWrite32 (wordOffset addr) data s
     else s).answer .writeDone
  else raiseInvalidTarget addr s

end Sys2Proof.Machine
end

