-- ==== Sys2Proof/Safety.lean ====
section
/-!
DEFINITION. The terms claims use: the invariant of reachable states (R41), the kinds of requests and the actors that
issue them (R207, R227), and the reserved descriptors (R86).
-/
namespace Sys2Proof.Machine

/-- R41.1: every slot at an index >= N_LR is all-zero and its EOI flag is 0. -/
abbrev UnimplementedZero (s : State) : Prop :=
  ∀ i : SlotIndex, s.cfg.nLr ≤ i.val → s.lr[i] = Slot.zero ∧ s.eoif[i] = false

/-- Bit p of APR[0] is 1 exactly when some implemented slot is active at priority p (R146-R148). A bus write of APR0 can
end this (R119). -/
abbrev AprExact (s : State) : Prop :=
  ∀ p : Priority, s.apr[0].getLsbD p.toNat = true ↔
    ∃ j : SlotIndex, j.val < s.cfg.nLr ∧ s.lr[j].state.isActive = true ∧ s.lr[j].pri = p

/-- A reserved descriptor (R86): KIND = 0b11, or an event with CODE > 3 or OFF[11:4] != 0. -/
abbrev ReservedDescriptor (desc : Descriptor) : Prop :=
  kindField desc = 3#2 ∨ (kindField desc = 2#2 ∧ (3 < (codeField desc).toNat ∨ eventZeroField desc ≠ 0#8))

/-- The kinds of requests (R13, R80). -/
inductive RequestKind where
  | busRead
  | busWrite
  | ack
  | eoi
  | deactDone
  | setPws
deriving DecidableEq, Repr

/-- The kind of a decoded request (R81, R84). -/
def requestKind (i : Instr) : RequestKind :=
  match i with
  | .evAck => .ack
  | .evEoi _ => .eoi
  | .evDeact _ => .deactDone
  | .evSetPws _ => .setPws
  | .rdHcr _ _ => .busRead
  | .wrHcr _ _ _ => .busWrite
  | .rdVtr _ _ => .busRead
  | .wrVtr _ _ _ => .busWrite
  | .rdVmcr _ _ => .busRead
  | .wrVmcr _ _ _ => .busWrite
  | .rdMisr _ _ => .busRead
  | .wrMisr _ _ _ => .busWrite
  | .rdEisr0 _ _ => .busRead
  | .wrEisr0 _ _ _ => .busWrite
  | .rdEisr1 _ _ => .busRead
  | .wrEisr1 _ _ _ => .busWrite
  | .rdElrsr0 _ _ => .busRead
  | .wrElrsr0 _ _ _ => .busWrite
  | .rdElrsr1 _ _ => .busRead
  | .wrElrsr1 _ _ _ => .busWrite
  | .rdApr _ _ _ => .busRead
  | .wrApr _ _ _ _ => .busWrite
  | .rdLr _ _ _ => .busRead
  | .wrLr _ _ _ _ => .busWrite
  | .rdRsvd _ _ _ => .busRead
  | .wrRsvd _ _ _ _ => .busWrite

/-- The request is an input event (R80). -/
def RequestKind.isEvent (k : RequestKind) : Bool :=
  match k with
  | .busRead => false
  | .busWrite => false
  | .ack => true
  | .eoi => true
  | .deactDone => true
  | .setPws => true

/-- The actors of the block (R227). -/
inductive Actor where
  /-- The owning virtual CPU's execution context. -/
  | hypervisor
  /-- The remote management path, for migration and save/restore. -/
  | management
  /-- The guest-event path. -/
  | guest
  /-- The external arbitration. -/
  | arbitration
deriving DecidableEq, Repr

/-- The actor that issues a kind of request (R207, R227). The block itself accepts every request from every actor and
makes no check (R228), so no meaning reads this. -/
def Actor.issues (a : Actor) (k : RequestKind) : Bool :=
  match k with
  | .busRead => a == .hypervisor || a == .management
  | .busWrite => a == .hypervisor || a == .management
  | .ack => a == .guest
  | .eoi => a == .guest
  | .deactDone => a == .hypervisor
  | .setPws => a == .arbitration

end Sys2Proof.Machine
end

