-- ==== Sys2Proof/Certificates/Slice0/Obligations.lean ====
section
/-!
DEFINITION. The statements for the provers. A clause about the fields `cfg`, `inbox` and `result` rests on the model's
own choice of those fields (logs 1, 5 and 6).
-/
open Sys2Proof Sys2Proof.Machine

/-! ### Encoding and decoding (R80-R89) -/

/-- Every well-formed request decodes from its own encoding, with every operand at every value (R81-R84). -/
def Obligations.DecodeInvertsEncode : Prop :=
  ∀ i : Instr, i.wellFormed = true → decode (encode i).1 (encode i).2 = .ok i

/-- A decoded request is well-formed and encodes back to the descriptor and operand it came from, less the bits the
decoder ignores: SIZE in an event, the operand of a read, and the operand bits above an event's argument (R81, R83). -/
def Obligations.EncodeInvertsDecode : Prop :=
  ∀ (desc : Descriptor) (data : Word) (i : Instr), decode desc data = .ok i →
    i.wellFormed = true ∧
    (kindField desc = 0#2 → encode i = (desc, 0#32)) ∧
    (kindField desc = 1#2 → encode i = (desc, data)) ∧
    (kindField desc = 2#2 → (encode i).1 = desc &&& 0x30FFF#18 ∧
      (codeField desc = 0#4 → (encode i).2 = 0#32) ∧
      (codeField desc = 1#4 → (encode i).2 = data &&& 0x3FF#32) ∧
      (codeField desc = 2#4 → (encode i).2 = data &&& 0xF#32) ∧
      (codeField desc = 3#4 → (encode i).2 = data &&& 0x1#32))

/-- The decoder rejects exactly the reserved descriptors, whatever the operand (R84, R86). -/
def Obligations.DecodeRejectsExactlyReservedDescriptors : Prop :=
  ∀ (desc : Descriptor) (data : Word),
    (∃ why, decode desc data = .error why) ↔
      (desc.extractLsb' 16 2 = 3#2 ∨
        (desc.extractLsb' 16 2 = 2#2 ∧ (3 < (desc.extractLsb' 0 4).toNat ∨ desc.extractLsb' 4 8 ≠ 0#8)))

/-- Decoding picks the first row of the opcode table, in R84's order, that the descriptor matches; a rejected descriptor
matches no row (R84 and spec/opcode_table.json). -/
def Obligations.DecodePicksFirstMatchingOpcodeRow : Prop :=
  ∀ (desc : Descriptor) (data : Word),
    opcodeTable.find? (fun row => row.fits desc) =
      match decode desc data with
      | .ok i => some (opcodeRow i)
      | .error _ => none

/-- The register map of R82: each register stands at its offset, and every other word is reserved. -/
def Obligations.RegisterMapPlacesEveryWordOffset : Prop :=
  regAt (0x000 / 4) = .hcr ∧ regAt (0x004 / 4) = .vtr ∧ regAt (0x008 / 4) = .vmcr ∧ regAt (0x010 / 4) = .misr ∧
  regAt (0x020 / 4) = .eisr0 ∧ regAt (0x024 / 4) = .eisr1 ∧ regAt (0x030 / 4) = .elrsr0 ∧
  regAt (0x034 / 4) = .elrsr1 ∧
  (∀ n : AprIndex, regAt (BitVec.ofNat 10 ((0x0F0 + 4 * n.val) / 4)) = .apr n) ∧
  (∀ n : SlotIndex, regAt (BitVec.ofNat 10 ((0x100 + 4 * n.val) / 4)) = .lr n) ∧
  (∀ woff : BitVec 10, reservedWoff woff = true ↔ regAt woff = .rsvd woff)

/-- Words written out from the spec's encodings and vectors decode to the requests they stand for. -/
def Obligations.WrittenOutWordsDecode : Prop :=
  decode 0b000100000000000000#18 0 = .ok (.rdHcr 4 0) ∧
  decode 0x14114#18 0x58000005#32 = .ok (.wrLr 4 0 5 0x58000005#32) ∧
  decode 0x020F1#18 0 = .ok (.rdApr 2 1 0) ∧
  decode 0x1100B#18 0xF8#32 = .ok (.wrVmcr 1 3 0xF8#32) ∧
  decode 0x20001#18 0x405#32 = .ok (.evEoi 5) ∧
  decode 0x20002#18 0x10#32 = .ok (.evDeact 0) ∧
  decode 0x20003#18 0x3#32 = .ok (.evSetPws true)

/-- An assembled request decodes to the request its text names (R88): register names and byte offsets, any size, and the
four events. -/
def Obligations.AssembledRequestsDecodeAsNamed : Prop :=
  (∀ (r : Reg) (size : Nat) (k : BitVec 2), (∀ woff, r ≠ .rsvd woff) →
    decode (assemble (.rd size (regOffset r k))).1 (assemble (.rd size (regOffset r k))).2 =
      .ok (readInstr r (encodeSize size) k)) ∧
  (∀ (r : Reg) (size : Nat) (k : BitVec 2) (data : Word), (∀ woff, r ≠ .rsvd woff) →
    decode (assemble (.wr size (regOffset r k) data)).1 (assemble (.wr size (regOffset r k) data)).2 =
      .ok (writeInstr r (encodeSize size) k data)) ∧
  decode (assemble .ack).1 (assemble .ack).2 = .ok .evAck ∧
  (∀ vid, decode (assemble (.eoi vid)).1 (assemble (.eoi vid)).2 = .ok (.evEoi vid)) ∧
  (∀ index, decode (assemble (.deact index)).1 (assemble (.deact index)).2 = .ok (.evDeact index)) ∧
  (∀ b, decode (assemble (.pws b)).1 (assemble (.pws b)).2 = .ok (.evSetPws b))

/-- The pseudo-requests of R89 on an implemented slot: `inject` and `inject.hw` leave it Pending with the given fields,
`withdraw` leaves it all-zero, and the second request of `setstate`, made from the slot's word, changes its state only. -/
def Obligations.PseudoRequestsWriteTheirSlot : Prop :=
  ∀ (s : State) (rest : List Request) (n : SlotIndex) (vid pid : IntId) (pri : Priority) (grp : Group)
    (st : SlotState), n.val < s.cfg.nLr →
    let after (a : Asm) (x : Slot) : Prop :=
      ∃ t, step (s.setInbox (assembledRequest a :: rest)) = .next t ∧ t.lr = s.lr.set n x ∧ t.inbox = rest
    after (injectAsm n vid pri grp)
      { vid := vid, pid := 0, hw := false, grp := grp, pri := pri, state := .pending } ∧
    after (injectHwAsm n vid pid pri grp)
      { vid := vid, pid := pid, hw := true, grp := grp, pri := pri, state := .pending } ∧
    after (withdrawAsm n) Slot.zero ∧
    after (setStateWriteAsm n (encodeLR s.lr[n]) st) { s.lr[n] with state := st }

/-! ### The step (R6, R60-R80, R220-R223) -/

/-- When the oldest request is presented as a descriptor and operand that decode to an instruction, the step is the
execution of that instruction on the state with the request taken (R6, R76, R80, R84; the queue is the model's, log 5). -/
def Obligations.StepRunsTheDecodedRequest : Prop :=
  ∀ (s : State) (r : Request) (rest : List Request) (desc : Descriptor) (data : Word) (i : Instr),
    s.inbox = r :: rest → present s.cfg r = .ok (desc, data) → decode desc data = .ok i →
    step s = exec i { s with inbox := rest }

/-- With no request issued a step changes nothing. This is the model's choice (log 5). -/
def Obligations.StepWithoutRequestChangesNothing : Prop :=
  ∀ s : State, s.inbox = [] → step s = .next s

/-- No request stops the block: a step never ends in a fault, and it is refused exactly when the oldest request is a
reserved descriptor, which is not a request (R86, R222). -/
def Obligations.StepStopsOnlyAtReservedDescriptors : Prop :=
  ∀ s : State, (∀ f, step s ≠ .fault f) ∧
    ((∃ why, step s = .refused why) ↔
      ∃ desc data rest, s.inbox = .described desc data :: rest ∧ ReservedDescriptor desc)

/-- A step that takes a bus read, through the descriptor, the decoder and the register's meaning, does what R61-R68 and
R100 say of its address and size: the two descriptions of a bus read agree. -/
def Obligations.StepOfBusReadAgreesWithAddressRules : Prop :=
  ∀ (s : State) (addr : Addr) (size : Nat) (rest : List Request),
    s.inbox = .busRead addr size :: rest →
    step s = .next (busRead addr size { s with inbox := rest })

/-- A step that takes a bus write, through the descriptor, the decoder and the register's meaning, does what R61-R64,
R69-R72 and R101 say of its address, size and data: the two descriptions of a bus write agree. -/
def Obligations.StepOfBusWriteAgreesWithAddressRules : Prop :=
  ∀ (s : State) (addr : Addr) (size : Nat) (data : Word) (rest : List Request),
    s.inbox = .busWrite addr size data :: rest →
    step s = .next (busWrite addr size data { s with inbox := rest })

/-- A bus request of any kind and width whose address lies outside [BASE, BASE + 0x10000) gets InvalidTarget with its
64-bit address, code 1, as its result, and changes no other state (R61, R220, R221, R223). That the report is a field of
a next state is the model's choice (log 6). -/
def Obligations.OutOfWindowRequestIsReportedAndChangesNothing : Prop :=
  ∀ (s : State) (addr : Addr) (size : Nat) (data : Word) (rest : List Request) (r : Request),
    (addr.toNat < s.cfg.base.toNat ∨ s.cfg.base.toNat + 0x10000 ≤ addr.toNat) →
    (r = .busRead addr size ∨ r = .busWrite addr size data) → s.inbox = r :: rest →
    step s = .next { s with inbox := rest, result := some (.fault (.invalidTarget addr)) } ∧
      (Result.fault (.invalidTarget addr)).faultCode = 1

/-- BASE is a multiple of 0x10000 (R8), the offset of an in-window address is its distance from BASE modulo 0x1000, and
so two in-window addresses that differ by a multiple of 0x1000 reach the same register: a read or a write of either
gives the same step (R62). -/
def Obligations.OffsetsAliasModulo4KiB : Prop :=
  (∀ c : Config, c.base.toNat % 0x10000 = 0) ∧
  (∀ (c : Config) (addr : Addr), inWindow c addr = true →
    (offsetOf addr).toNat = (addr.toNat - c.base.toNat) % 0x1000) ∧
  (∀ (s : State) (a b : Addr) (size : Nat) (data : Word) (rest : List Request),
    inWindow s.cfg a = true → inWindow s.cfg b = true → a.toNat % 0x1000 = b.toNat % 0x1000 →
    step (s.setInbox (.busRead a size :: rest)) = step (s.setInbox (.busRead b size :: rest)) ∧
    step (s.setInbox (.busWrite a size data :: rest)) = step (s.setInbox (.busWrite b size data :: rest)))

/-- Every step keeps the configuration (R244) and takes at most the oldest request (R76, log 5). -/
def Obligations.StepKeepsConfigurationAndTakesOneRequest : Prop :=
  ∀ s t : State, step s = .next t → t.cfg = s.cfg ∧ t.inbox = s.inbox.tail

/-! ### Invariants (R22, R41, R146-R148) and the state at creation (R240-R243) -/

/-- Every step keeps every slot at or beyond N_LR all-zero with its EOI flag 0 (R22, R41, R151). -/
def Obligations.StepKeepsUnimplementedSlotsZero : Prop :=
  ∀ s t : State, UnimplementedZero s → step s = .next t → UnimplementedZero t

/-- Every request but a bus write of APR0 keeps bit p of APR[0] equal to "some implemented slot is active at priority p"
(R146-R148). -/
def Obligations.RequestsKeepAprExact : Prop :=
  ∀ (i : Instr) (s t : State), AprExact s → exec i s = .next t →
    (∀ size lane data, i ≠ .wrApr size lane 0 data) → AprExact t

/-- The state at creation meets both invariants in every configuration. -/
def Obligations.CreatedStateMeetsInvariants : Prop :=
  ∀ c : Config, UnimplementedZero (State.created c) ∧ AprExact (State.created c)

/-- The number of slots in Active or ActiveAndPending state never exceeds N_LR where the unimplemented slots are
all-zero (R41.2). -/
def Obligations.ActiveSlotsNeverExceedCapacity : Prop :=
  ∀ s : State, UnimplementedZero s →
    ((List.finRange 16).countP fun i : SlotIndex => s.lr[i].state.isActive) ≤ s.cfg.nLr

/-- The values of R241 at creation, in every configuration: every slot all-zero, every EOI flag and PWS 0, HCR, VMCR and
the APR words 0, and VTR its constant. -/
def Obligations.CreationValues : Prop :=
  ∀ c : Config,
    (∀ i : SlotIndex, (State.created c).lr[i] =
      { vid := 0, pid := 0, hw := false, grp := .group0, pri := 0, state := .inactive } ∧
      (State.created c).eoif[i] = false) ∧
    (State.created c).pws = false ∧ hcrWord (State.created c).hcr = 0#32 ∧
    vmcrWord (State.created c).vmcr = 0#32 ∧ (∀ n : AprIndex, (State.created c).apr[n] = 0#32) ∧
    vtrWord (State.created c).cfg = 0x90000000#32 ||| BitVec.ofNat 32 (c.nLr - 1)

/-- Reset is creation (R240), with the configuration of log 2, which is the model's choice, and no request issued. -/
def Obligations.ResetIsCreation : Prop :=
  Sys2Proof.core.reset = State.created Config.standard ∧ State.reset.inbox = []

/-- The derived values of R242 at creation, for every N_LR and UNDERFLOW_LWM. -/
def Obligations.DerivedValuesAtCreation : Prop :=
  ∀ c : Config, let s := State.created c
    elrsr0 s = BitVec.ofNat 32 (2 ^ c.nLr - 1) ∧ eisr0 s = 0#32 ∧ eisr1 s = 0#32 ∧ elrsr1 s = 0#32 ∧
      misr s = 0#32 ∧ maint s = false ∧ hppi s = none

/-! ### Completion and reads (R64-R68, R75, R100-R122, R222) -/

/-- Every decoded request completes in every state: it has a next state (R222: no other request faults, and events are
accepted in every state). -/
def Obligations.EveryDecodedRequestCompletes : Prop :=
  ∀ (i : Instr) (s : State), ∃ t, exec i s = .next t

/-- Every read returns the addressed bytes of its register's word, and changes nothing but the result (R75, R100,
R102-R122). -/
def Obligations.ReadsReturnTheirRegisterAndChangeNothing : Prop :=
  ∀ (size : BitVec 4) (lane : BitVec 2) (n : AprIndex) (k : SlotIndex) (woff : BitVec 10) (s : State),
    let returns (i : Instr) (w : Word) : Prop :=
      exec i s = .next { s with result := some (.readData (sliceRead size lane w)) }
    returns (.rdHcr size lane) (hcrWord s.hcr) ∧
    returns (.rdVtr size lane) (vtrWord s.cfg) ∧
    returns (.rdVmcr size lane) (vmcrWord s.vmcr) ∧
    returns (.rdMisr size lane) (misr s) ∧
    returns (.rdEisr0 size lane) (eisr0 s) ∧
    returns (.rdEisr1 size lane) 0#32 ∧
    returns (.rdElrsr0 size lane) (elrsr0 s) ∧
    returns (.rdElrsr1 size lane) 0#32 ∧
    returns (.rdApr size lane n) s.apr[n] ∧
    returns (.rdLr size lane k) (if k.val < s.cfg.nLr then encodeLR s.lr[k] else 0#32) ∧
    returns (.rdRsvd size lane woff) 0#32

/-- The bytes a read returns: the word for 4 bytes at any lane (R65), the byte at the lane (R66), the two bytes at the
lane with nothing beyond byte 3 (R67), and 0 for every other size (R68), zero-extended. -/
def Obligations.ReadSlicesByWidthAndLane : Prop :=
  ∀ (size : BitVec 4) (lane : BitVec 2) (w : Word) (k : Nat),
    (size = 4#4 → sliceRead size lane w = w) ∧
    (size = 1#4 → (sliceRead size lane w).getLsbD k = (decide (k < 8) && w.getLsbD (8 * lane.toNat + k))) ∧
    (size = 2#4 → (sliceRead size lane w).getLsbD k = (decide (k < 16) && w.getLsbD (8 * lane.toNat + k))) ∧
    (size ≠ 1#4 → size ≠ 2#4 → size ≠ 4#4 → sliceRead size lane w = 0#32)

/-! ### Writes (R69-R72, R101-R123) -/

/-- The word a bus write hands to its register: the data for 4 bytes at any lane (R69); for 1 and 2 bytes, in mode MERGE
the old word with the addressed bytes replaced and nothing beyond byte 3 (R70), in mode RAW_FORWARD the carried data
unshifted with every other bit 0 (R71); and none for every other size (R72). -/
def Obligations.WritesStoreByWidthLaneAndMode : Prop :=
  ∀ (mode : SubwordWriteMode) (size : BitVec 4) (lane : BitVec 2) (data old : Word),
    (size = 4#4 → storedWord mode size lane data old = some data) ∧
    (size = 1#4 ∨ size = 2#4 → mode = .merge → ∃ v, storedWord mode size lane data old = some v ∧
      ∀ k, k < 32 → v.getLsbD k =
        if 8 * lane.toNat ≤ k ∧ k < 8 * lane.toNat + 8 * size.toNat then data.getLsbD (k - 8 * lane.toNat)
        else old.getLsbD k) ∧
    (size = 1#4 ∨ size = 2#4 → mode = .rawForward → ∃ v, storedWord mode size lane data old = some v ∧
      ∀ k, k < 32 → v.getLsbD k = (decide (k < 8 * size.toNat) && data.getLsbD k)) ∧
    (size ≠ 1#4 → size ≠ 2#4 → size ≠ 4#4 → storedWord mode size lane data old = none)

/-- A bus write of HCR stores the fields of the word it hands over and changes nothing else; with no word handed over it
changes nothing (R103, R30). -/
def Obligations.HcrWriteStoresItsFields : Prop :=
  ∀ (size : BitVec 4) (lane : BitVec 2) (data : Word) (s : State),
    exec (.wrHcr size lane data) s = .next
      (match storedWord s.cfg.subwordMode size lane data (hcrWord s.hcr) with
      | some v => { s with
          hcr := { en := v.getLsbD 0, uie := v.getLsbD 1, lrenpie := v.getLsbD 2, npie := v.getLsbD 3,
                   vgrp0eie := v.getLsbD 4, vgrp0die := v.getLsbD 5, vgrp1eie := v.getLsbD 6,
                   vgrp1die := v.getLsbD 7, eoiCount := v.extractLsb' 27 5 }
          result := some .writeDone }
      | none => { s with result := some .writeDone })

/-- A bus write of VMCR stores the fields of the word it hands over and changes nothing else; with no word handed over
it changes nothing (R107). -/
def Obligations.VmcrWriteStoresItsFields : Prop :=
  ∀ (size : BitVec 4) (lane : BitVec 2) (data : Word) (s : State),
    exec (.wrVmcr size lane data) s = .next
      (match storedWord s.cfg.subwordMode size lane data (vmcrWord s.vmcr) with
      | some v => { s with
          vmcr := { veng0 := v.getLsbD 0, veng1 := v.getLsbD 1, vAckCtl := v.getLsbD 2, vFiqEn := v.getLsbD 3,
                    vCbpr := v.getLsbD 4, vEoim := v.getLsbD 9, vbpr1 := v.extractLsb' 18 3,
                    vbpr0 := v.extractLsb' 21 3, vpmr := v.extractLsb' 27 5 }
          result := some .writeDone }
      | none => { s with result := some .writeDone })

/-- A bus write of active-priority word n stores the word it hands over verbatim and changes nothing else; with no word
handed over it changes nothing (R119). -/
def Obligations.AprWriteStoresItsWord : Prop :=
  ∀ (size : BitVec 4) (lane : BitVec 2) (n : AprIndex) (data : Word) (s : State),
    exec (.wrApr size lane n data) s = .next
      (match storedWord s.cfg.subwordMode size lane data s.apr[n] with
      | some v => { s with apr := s.apr.set n v, result := some .writeDone }
      | none => { s with result := some .writeDone })

/-- A bus write of a read-only register or a reserved offset, of any size, data and lane, changes nothing but the result
(R75, R85, R105, R109, R111, R113, R115, R117, R123). -/
def Obligations.ReadOnlyAndReservedWritesAreIgnored : Prop :=
  ∀ (size : BitVec 4) (lane : BitVec 2) (data : Word) (woff : BitVec 10) (s : State) (i : Instr),
    i ∈ [Instr.wrVtr size lane data, .wrMisr size lane data, .wrEisr0 size lane data, .wrEisr1 size lane data,
      .wrElrsr0 size lane data, .wrElrsr1 size lane data, .wrRsvd size lane woff data] →
    exec i s = .next { s with result := some .writeDone }

/-- A bus write of an implemented list register that hands over a word v replaces the slot by the fields of v, clears the
slot's EOI flag unless Inactive is written over Inactive, and updates APR[0]: the old priority's bit is released when
the slot leaves the active states or changes priority and no implemented slot is then active at it, and the new
priority's bit is set when the new state is active (R141, R146, R147). Nothing else changes. The EOI-flag clause follows
R144 where R142's corner case says that writing the current encoding back changes nothing: the model's choice (log 17). -/
def Obligations.LrWriteReplacesSlotWithBookkeeping : Prop :=
  ∀ (size : BitVec 4) (lane : BitVec 2) (n : SlotIndex) (data v : Word) (s : State),
    n.val < s.cfg.nLr → storedWord s.cfg.subwordMode size lane data (encodeLR s.lr[n]) = some v →
    let new : Slot :=
      { vid := v.extractLsb' 0 10, pid := v.extractLsb' 10 10, hw := v.getLsbD 31,
        grp := if v.getLsbD 30 then .group1 else .group0, pri := v.extractLsb' 23 5,
        state := SlotState.ofCode (v.extractLsb' 28 2) }
    ∃ t, exec (.wrLr size lane n data) s = .next t ∧
      t.lr = s.lr.set n new ∧
      t.eoif = (if s.lr[n].state = .inactive ∧ new.state = .inactive then s.eoif else s.eoif.set n false) ∧
      (∀ p : Priority, t.apr[0].getLsbD p.toNat = true ↔
        (new.state.isActive = true ∧ new.pri = p) ∨
        (s.apr[0].getLsbD p.toNat = true ∧
          ¬(s.lr[n].state.isActive = true ∧ s.lr[n].pri = p ∧ (new.state.isActive = false ∨ new.pri ≠ p) ∧
            ¬∃ j : SlotIndex, j.val < s.cfg.nLr ∧ t.lr[j].state.isActive = true ∧ t.lr[j].pri = p))) ∧
      (∀ k : AprIndex, k ≠ 0 → t.apr[k] = s.apr[k]) ∧
      t.pws = s.pws ∧ t.hcr = s.hcr ∧ t.vmcr = s.vmcr ∧ t.cfg = s.cfg ∧ t.inbox = s.inbox ∧
      t.result = some .writeDone

/-- A bus write of an unimplemented list register, or one of a size without effect to any list register, changes nothing
but the result; a read of an unimplemented list register returns 0 (R72, R120, R121, R142, R151). -/
def Obligations.UnimplementedLrIsZeroAndIgnoresWrites : Prop :=
  ∀ (size : BitVec 4) (lane : BitVec 2) (n : SlotIndex) (data : Word) (s : State),
    (s.cfg.nLr ≤ n.val → exec (.rdLr size lane n) s = .next { s with result := some (.readData 0#32) }) ∧
    (s.cfg.nLr ≤ n.val ∨ (size ≠ 1#4 ∧ size ≠ 2#4 ∧ size ≠ 4#4) →
      exec (.wrLr size lane n data) s = .next { s with result := some .writeDone })

/-- Writing the same data twice with the same size and lane to HCR, VMCR, an APR word or a list register leaves the state
that writing it once leaves (R75). -/
def Obligations.WritingTwiceIsWritingOnce : Prop :=
  ∀ (size : BitVec 4) (lane : BitVec 2) (n : AprIndex) (k : SlotIndex) (data : Word) (s : State) (i : Instr),
    i ∈ [Instr.wrHcr size lane data, .wrVmcr size lane data, .wrApr size lane n data, .wrLr size lane k data] →
    ∃ t, exec i s = .next t ∧ exec i t = .next t

/-! ### Register words (R24, R25, R29, R31, R32, R140, R141) -/

/-- The bit positions of HCR, VTR and VMCR; reserved bits read 0 (R29, R31, R32, R39, R102, R104, R106). The spec takes
the positions from general knowledge (log 9). -/
def Obligations.ControlRegisterWordLayouts : Prop :=
  ∀ (h : Hcr) (c : Config) (m : Vmcr),
    ((hcrWord h).getLsbD 0 = h.en ∧ (hcrWord h).getLsbD 1 = h.uie ∧ (hcrWord h).getLsbD 2 = h.lrenpie ∧
      (hcrWord h).getLsbD 3 = h.npie ∧ (hcrWord h).getLsbD 4 = h.vgrp0eie ∧ (hcrWord h).getLsbD 5 = h.vgrp0die ∧
      (hcrWord h).getLsbD 6 = h.vgrp1eie ∧ (hcrWord h).getLsbD 7 = h.vgrp1die ∧
      (hcrWord h).extractLsb' 8 19 = 0#19 ∧ (hcrWord h).extractLsb' 27 5 = h.eoiCount) ∧
    (((vtrWord c).extractLsb' 0 6).toNat = c.nLr - 1 ∧ (vtrWord c).extractLsb' 6 20 = 0#20 ∧
      (vtrWord c).extractLsb' 26 3 = 4#3 ∧ (vtrWord c).extractLsb' 29 3 = 4#3) ∧
    ((vmcrWord m).getLsbD 0 = m.veng0 ∧ (vmcrWord m).getLsbD 1 = m.veng1 ∧ (vmcrWord m).getLsbD 2 = m.vAckCtl ∧
      (vmcrWord m).getLsbD 3 = m.vFiqEn ∧ (vmcrWord m).getLsbD 4 = m.vCbpr ∧
      (vmcrWord m).extractLsb' 5 4 = 0#4 ∧ (vmcrWord m).getLsbD 9 = m.vEoim ∧
      (vmcrWord m).extractLsb' 10 8 = 0#8 ∧ (vmcrWord m).extractLsb' 18 3 = m.vbpr1 ∧
      (vmcrWord m).extractLsb' 21 3 = m.vbpr0 ∧ (vmcrWord m).extractLsb' 24 3 = 0#3 ∧
      (vmcrWord m).extractLsb' 27 5 = m.vpmr)

/-- The bit positions of a list register and the codes of its state; bits [22:20] read 0 (R24, R25, R140). The spec takes
the positions from general knowledge (log 9). -/
def Obligations.ListRegisterWordLayout : Prop :=
  ∀ x : Slot,
    (encodeLR x).extractLsb' 0 10 = x.vid ∧ (encodeLR x).extractLsb' 10 10 = x.pid ∧
    (encodeLR x).extractLsb' 20 3 = 0#3 ∧ (encodeLR x).extractLsb' 23 5 = x.pri ∧
    (encodeLR x).extractLsb' 28 2 =
      (match x.state with
      | .inactive => 0b00#2
      | .pending => 0b01#2
      | .active => 0b10#2
      | .activeAndPending => 0b11#2) ∧
    ((encodeLR x).getLsbD 30 = true ↔ x.grp = .group1) ∧ (encodeLR x).getLsbD 31 = x.hw

/-- A written word reads back with its reserved bits 0, and stored fields survive being read and decoded, for HCR, VMCR
and the list registers (R39, R102, R106, R150). -/
def Obligations.RegisterCodecsRoundTrip : Prop :=
  ∀ (v : Word) (h : Hcr) (m : Vmcr) (x : Slot),
    hcrWord (hcrOfWord v) = v &&& 0xF80000FF#32 ∧ hcrOfWord (hcrWord h) = h ∧
    vmcrWord (vmcrOfWord v) = v &&& 0xF8FC021F#32 ∧ vmcrOfWord (vmcrWord m) = m ∧
    encodeLR (decodeLR v) = v &&& 0xFF8FFFFF#32 ∧ decodeLR (encodeLR x) = x

/-- A 4-byte read of a list register after a 4-byte write of it returns the written word with bits [22:20] cleared, and
0 for an unimplemented one, at any lanes (R150, R151). -/
def Obligations.ListRegisterReadsBackItsWrite : Prop :=
  ∀ (s : State) (n : SlotIndex) (v : Word) (lane lane' : BitVec 2),
    ∃ t, exec (.wrLr 4#4 lane n v) s = .next t ∧
      exec (.rdLr 4#4 lane' n) t = .next { t with
        result := some (.readData (if n.val < s.cfg.nLr then v &&& 0xFF8FFFFF#32 else 0#32)) }

/-- Save and restore (R246): the word a 4-byte read of HCR, VMCR, an APR word or a list register returns in a state s,
written into any state u of the same configuration, gives the register its value in s, and changes nothing else of HCR,
VMCR and the slots. A restored list register keeps PWS, and loses its EOI flag unless the slot is Inactive both in s and in
u; this clause follows R144 and R246 where R142's corner case says otherwise, which is the model's choice (log 17). -/
def Obligations.SavedRegistersRestore : Prop :=
  ∀ (s u : State) (lane lane' : BitVec 2) (n : AprIndex) (k : SlotIndex), u.cfg = s.cfg →
    let restores (read : Instr) (saved : Word) (write : Word → Instr) (t : State) : Prop :=
      exec read s = .next { s with result := some (.readData saved) } ∧ exec (write saved) u = .next t
    restores (.rdHcr 4#4 lane) (hcrWord s.hcr) (.wrHcr 4#4 lane')
      { u with hcr := s.hcr, result := some .writeDone } ∧
    restores (.rdVmcr 4#4 lane) (vmcrWord s.vmcr) (.wrVmcr 4#4 lane')
      { u with vmcr := s.vmcr, result := some .writeDone } ∧
    restores (.rdApr 4#4 lane n) s.apr[n] (.wrApr 4#4 lane' n)
      { u with apr := u.apr.set n s.apr[n], result := some .writeDone } ∧
    ∃ t, restores (.rdLr 4#4 lane k) (lrRead k s) (.wrLr 4#4 lane' k) t ∧
      t.lr = (if k.val < s.cfg.nLr then u.lr.set k s.lr[k] else u.lr) ∧
      t.eoif = (if k.val < s.cfg.nLr ∧ ¬(s.lr[k].state = .inactive ∧ u.lr[k].state = .inactive) then
        u.eoif.set k false else u.eoif) ∧
      t.hcr = u.hcr ∧ t.vmcr = u.vmcr ∧ t.pws = u.pws

/-! ### Maintenance status (R170-R182) -/

/-- Each bit of MISR is its condition, gated by its enable alone; bits [31:8] are 0 (R172-R178). -/
def Obligations.MisrBitsAreTheirConditions : Prop :=
  ∀ s : State,
    ((misr s).getLsbD 0 = true ↔ ∃ i : SlotIndex, i.val < s.cfg.nLr ∧ s.eoif[i] = true) ∧
    ((misr s).getLsbD 1 = true ↔ s.hcr.uie = true ∧
      (Finset.univ.filter fun i : SlotIndex => i.val < s.cfg.nLr ∧ s.lr[i].state ≠ .inactive).card <
        s.cfg.underflowLwm.val) ∧
    ((misr s).getLsbD 2 = true ↔ s.hcr.lrenpie = true ∧ s.pws = true) ∧
    ((misr s).getLsbD 3 = true ↔ s.hcr.npie = true ∧
      ¬∃ i : SlotIndex, i.val < s.cfg.nLr ∧ (s.lr[i].state = .pending ∨ s.lr[i].state = .activeAndPending)) ∧
    ((misr s).getLsbD 4 = true ↔ s.hcr.vgrp0eie = true ∧ s.vmcr.veng0 = true) ∧
    ((misr s).getLsbD 5 = true ↔ s.hcr.vgrp0die = true ∧ s.vmcr.veng0 = false) ∧
    ((misr s).getLsbD 6 = true ↔ s.hcr.vgrp1eie = true ∧ s.vmcr.veng1 = true) ∧
    ((misr s).getLsbD 7 = true ↔ s.hcr.vgrp1die = true ∧ s.vmcr.veng1 = false) ∧
    ∀ k, 8 ≤ k → (misr s).getLsbD k = false

/-- Bit i of ELRSR0 is "slot i is implemented and Inactive", bit i of EISR0 is "slot i is implemented and its EOI flag is
set", bits [31:16] are 0, and ELRSR1 and EISR1 are 0 (R170, R171, R179). -/
def Obligations.SlotStatusBitmaps : Prop :=
  ∀ (s : State) (k : Nat),
    ((elrsr0 s).getLsbD k = true ↔ ∃ h : k < 16, k < s.cfg.nLr ∧ s.lr[k].state = .inactive) ∧
    ((eisr0 s).getLsbD k = true ↔ ∃ h : k < 16, k < s.cfg.nLr ∧ s.eoif[k] = true) ∧
    elrsr1 s = 0#32 ∧ eisr1 s = 0#32

/-- The maintenance line is HCR.En and the OR of the eight MISR bits (R180). -/
def Obligations.MaintenanceLineIsEnabledOrOfConditions : Prop :=
  ∀ s : State, maint s = true ↔ s.hcr.en = true ∧ ∃ k, k < 8 ∧ (misr s).getLsbD k = true

/-- APR feeds no status: replacing the APR words changes neither MISR, EISR0, ELRSR0, MAINT nor HPPI (R119, R193).
HCR.En gates the line alone: replacing it changes neither MISR, EISR0, ELRSR0 nor HPPI (R178, R190). The VMCR fields
without effect (VAckCtl, VFIQEn, VCBPR, VEOIM, VBPR0, VBPR1) change neither MISR, EISR0, ELRSR0, MAINT nor HPPI (R32,
R194). -/
def Obligations.UngatedStatusIgnoresAprEnAndBinaryPoint : Prop :=
  ∀ (s : State) (words : Vector Word 4) (b ackCtl fiqEn cbpr eoim : Bool) (bpr0 bpr1 : BitVec 3),
    let a : State := { s with apr := words }
    let e : State := { s with hcr := { s.hcr with en := b } }
    let m : State := { s with vmcr := { s.vmcr with
      vAckCtl := ackCtl, vFiqEn := fiqEn, vCbpr := cbpr, vEoim := eoim, vbpr0 := bpr0, vbpr1 := bpr1 } }
    (misr a = misr s ∧ eisr0 a = eisr0 s ∧ elrsr0 a = elrsr0 s ∧ maint a = maint s ∧ hppi a = hppi s) ∧
    (misr e = misr s ∧ eisr0 e = eisr0 s ∧ elrsr0 e = elrsr0 s ∧ hppi e = hppi s) ∧
    (misr m = misr s ∧ eisr0 m = eisr0 s ∧ elrsr0 m = elrsr0 s ∧ maint m = maint s ∧ hppi m = hppi s)

/-- Writing Inactive over an Inactive implemented slot stores the other fields and changes no maintenance status, no EOI
flag and no APR word (R149). -/
def Obligations.InactiveOverInactiveChangesNoStatus : Prop :=
  ∀ (s : State) (n : SlotIndex) (lane : BitVec 2) (v : Word),
    n.val < s.cfg.nLr → s.lr[n].state = .inactive → v.extractLsb' 28 2 = 0b00#2 →
    ∃ t, exec (.wrLr 4#4 lane n v) s = .next t ∧ t.lr = s.lr.set n (decodeLR v) ∧
      elrsr0 t = elrsr0 s ∧ eisr0 t = eisr0 s ∧ misr t = misr s ∧ maint t = maint s ∧
      t.eoif = s.eoif ∧ t.apr = s.apr

/-! ### Priority and events (R190-R206) -/

/-- HPPI is the eligible slot of lowest priority value, then lowest index, and none when no slot is eligible. A slot is
eligible when it is implemented, Pending or ActiveAndPending, its group is enabled in VMCR and its priority value is
strictly below VPMR (R190, R191). -/
def Obligations.HppiIsTheLeastEligibleSlot : Prop :=
  ∀ s : State,
    let canRun (i : SlotIndex) : Prop :=
      i.val < s.cfg.nLr ∧ (s.lr[i].state = .pending ∨ s.lr[i].state = .activeAndPending) ∧
        ((s.lr[i].grp = .group0 ∧ s.vmcr.veng0 = true) ∨ (s.lr[i].grp = .group1 ∧ s.vmcr.veng1 = true)) ∧
        s.lr[i].pri.toNat < s.vmcr.vpmr.toNat
    (hppi s = none ↔ ∀ i, ¬canRun i) ∧
    ∀ i, hppi s = some i ↔ canRun i ∧ ∀ j, canRun j →
      s.lr[i].pri.toNat < s.lr[j].pri.toNat ∨ (s.lr[i].pri = s.lr[j].pri ∧ i ≤ j)

/-- ACK with no eligible slot returns 1023 and changes nothing; otherwise HPPI's slot becomes Active with its other
fields kept, its priority's bit of APR[0] is set, its vid is returned, and nothing else changes (R200, R201). -/
def Obligations.AckActivatesHppiAndReturnsItsVid : Prop :=
  ∀ s : State,
    (hppi s = none → exec .evAck s = .next { s with result := some (.ackId 1023#10) }) ∧
    ∀ i, hppi s = some i → exec .evAck s = .next { s with
      lr := s.lr.set i { s.lr[i] with state := .active }
      apr := s.apr.set 0 (s.apr[0] ||| 1#32 <<< s.lr[i].pri.toNat)
      result := some (.ackId s.lr[i].vid) }

/-- ACK leaves the empty-list status, the count of valid slots and the EOI flags as they were, and the slot it took is
no longer HPPI (R200). -/
def Obligations.AckKeepsEmptyListAndConsumesPending : Prop :=
  ∀ s t : State, exec .evAck s = .next t →
    elrsr0 t = elrsr0 s ∧ validCount t = validCount s ∧ t.eoif = s.eoif ∧
    ∀ i, hppi s = some i → hppi t ≠ some i

/-- The slot an EOI matches is the implemented Active or ActiveAndPending slot with that vid of lowest index (R202). -/
def Obligations.EoiMatchesLowestActiveSlotOfItsVid : Prop :=
  ∀ (vid : IntId) (s : State),
    let holds (i : SlotIndex) : Prop :=
      i.val < s.cfg.nLr ∧ (s.lr[i].state = .active ∨ s.lr[i].state = .activeAndPending) ∧ s.lr[i].vid = vid
    (eoiMatch vid s = none ↔ ∀ i, ¬holds i) ∧
    ∀ i, eoiMatch vid s = some i ↔ holds i ∧ ∀ j, j < i → ¬holds j

/-- An EOI that matches slot i moves Active to Inactive and ActiveAndPending to Pending, sets the slot's EOI flag when
the slot is hardware-backed, clears its priority's bit of APR[0] unless an implemented slot is still active at it, and
changes nothing else (R202, R147). -/
def Obligations.EoiEndsItsMatchedSlot : Prop :=
  ∀ (vid : IntId) (s : State) (i : SlotIndex), eoiMatch vid s = some i →
    ∃ t, exec (.evEoi vid) s = .next t ∧
      t.lr = s.lr.set i
        { s.lr[i] with state := if s.lr[i].state = .active then .inactive else .pending } ∧
      t.eoif = (if s.lr[i].hw = true then s.eoif.set i true else s.eoif) ∧
      (∀ p : Priority, t.apr[0].getLsbD p.toNat = true ↔ s.apr[0].getLsbD p.toNat = true ∧
        (p = s.lr[i].pri → ∃ j : SlotIndex, j.val < s.cfg.nLr ∧ t.lr[j].state.isActive = true ∧ t.lr[j].pri = p)) ∧
      (∀ k : AprIndex, k ≠ 0 → t.apr[k] = s.apr[k]) ∧
      t.pws = s.pws ∧ t.hcr = s.hcr ∧ t.vmcr = s.vmcr ∧ t.cfg = s.cfg ∧ t.inbox = s.inbox ∧
      t.result = some .eventDone

/-- An EOI that matches no slot raises EOICount by one up to 31, and changes nothing else (R203). -/
def Obligations.UnmatchedEoiCountsAndSaturates : Prop :=
  ∀ (vid : IntId) (s : State), eoiMatch vid s = none →
    exec (.evEoi vid) s = .next { s with
      hcr := { s.hcr with eoiCount := BitVec.ofNat 5 (min (s.hcr.eoiCount.toNat + 1) 31) }
      result := some .eventDone }

/-- An EOI leaves the no-pending summary as it was; where it matches a hardware-backed slot the slot's EISR0 bit and
MISR.EOI are 1 after it, and where the slot was Active its ELRSR0 bit is 1 (R202). -/
def Obligations.EoiStatusEffects : Prop :=
  ∀ (vid : IntId) (s t : State), exec (.evEoi vid) s = .next t →
    npBit t = npBit s ∧
    ∀ i, eoiMatch vid s = some i →
      (s.lr[i].hw = true → (eisr0 t).getLsbD i.val = true ∧ (misr t).getLsbD 0 = true) ∧
      (s.lr[i].state = .active → (elrsr0 t).getLsbD i.val = true)

/-- DEACT_DONE clears the EOI flag of an implemented slot and changes nothing else; so it clears that slot's bit of EISR0
and no other (R204). -/
def Obligations.DeactDoneClearsItsEoiStatus : Prop :=
  ∀ (index : SlotIndex) (s : State),
    ∃ t, exec (.evDeact index) s = .next t ∧
      t = { s with
        eoif := if index.val < s.cfg.nLr then s.eoif.set index false else s.eoif
        result := some .eventDone } ∧
      eisr0 t = eisr0 s &&& ~~~(1#32 <<< index.val)

/-- SET_PWS sets the pending-without-slot latch and changes nothing else; MISR.LRENP is then HCR.LRENPIE and the new
level (R175, R206). -/
def Obligations.SetPwsSetsTheLatch : Prop :=
  ∀ (b : Bool) (s : State),
    ∃ t, exec (.evSetPws b) s = .next t ∧ t = { s with pws := b, result := some .eventDone } ∧
      (misr t).getLsbD 2 = (s.hcr.lrenpie && b)

/-! ### Whole-machine rules (R28, R30, R33, R34, R143, R145, R205) -/

/-- A slot changes only as the table of R143 lists: by a write of its list register, by an ACK that takes it from Pending
or ActiveAndPending to Active, or by an EOI that takes it from Active to Inactive or from ActiveAndPending to Pending. -/
def Obligations.SlotsChangeOnlyAsTheFsmLists : Prop :=
  ∀ (i : Instr) (s t : State) (j : SlotIndex), exec i s = .next t →
    t.lr[j] =
      match i with
      | .wrLr size lane n data =>
        if n = j ∧ j.val < s.cfg.nLr then
          match storedWord s.cfg.subwordMode size lane data (encodeLR s.lr[j]) with
          | some v => decodeLR v
          | none => s.lr[j]
        else s.lr[j]
      | .evAck =>
        if hppi s = some j ∧ (s.lr[j].state = .pending ∨ s.lr[j].state = .activeAndPending) then
          { s.lr[j] with state := .active }
        else s.lr[j]
      | .evEoi vid =>
        if eoiMatch vid s = some j ∧ s.lr[j].state = .active then { s.lr[j] with state := .inactive }
        else if eoiMatch vid s = some j ∧ s.lr[j].state = .activeAndPending then
          { s.lr[j] with state := .pending }
        else s.lr[j]
      | _ => s.lr[j]

/-- An EOI flag changes only by a write of its list register other than Inactive over Inactive, which clears it, by an
EOI that matches its hardware-backed slot, which sets it, or by its DEACT_DONE, which clears it (R145). The write clause
follows R144 where R142's corner case says that writing the current encoding back changes nothing: the model's choice
(log 17). -/
def Obligations.EoiFlagsChangeOnlyByTheirCauses : Prop :=
  ∀ (i : Instr) (s t : State) (j : SlotIndex), exec i s = .next t →
    t.eoif[j] =
      match i with
      | .wrLr size lane n data =>
        if n = j ∧ j.val < s.cfg.nLr then
          match storedWord s.cfg.subwordMode size lane data (encodeLR s.lr[j]) with
          | some v =>
            if s.lr[j].state = .inactive ∧ (decodeLR v).state = .inactive then s.eoif[j] else false
          | none => s.eoif[j]
        else s.eoif[j]
      | .evEoi vid => if eoiMatch vid s = some j ∧ s.lr[j].hw = true then true else s.eoif[j]
      | .evDeact index => if index = j ∧ j.val < s.cfg.nLr then false else s.eoif[j]
      | _ => s.eoif[j]

/-- VMCR changes only by a bus write of VMCR (R33). -/
def Obligations.VmcrChangesOnlyByItsBusWrite : Prop :=
  ∀ (i : Instr) (s t : State), exec i s = .next t →
    (∀ size lane data, i ≠ .wrVmcr size lane data) → t.vmcr = s.vmcr

/-- APR[1], APR[2] and APR[3] change only by a bus write of their own word, and APR[0] only by a bus write of APR0, a
write of a list register, an ACK or an EOI (R34, R146, R147). HCR changes only by its bus write or by an EOI, and then in
EOICount alone, which does not fall (R30, R203). PWS changes only by SET_PWS (R28). -/
def Obligations.AprHcrAndPwsChangeOnlyByTheirRequests : Prop :=
  ∀ (i : Instr) (s t : State), exec i s = .next t →
    (∀ n : AprIndex, n ≠ 0 → (∀ size lane data, i ≠ .wrApr size lane n data) → t.apr[n] = s.apr[n]) ∧
    ((∀ size lane data, i ≠ .wrApr size lane 0 data) → (∀ size lane n data, i ≠ .wrLr size lane n data) →
      i ≠ .evAck → (∀ vid, i ≠ .evEoi vid) → t.apr[0] = s.apr[0]) ∧
    ((∀ size lane data, i ≠ .wrHcr size lane data) → { t.hcr with eoiCount := s.hcr.eoiCount } = s.hcr ∧
      s.hcr.eoiCount.toNat ≤ t.hcr.eoiCount.toNat ∧ ((∀ vid, i ≠ .evEoi vid) → t.hcr = s.hcr)) ∧
    ((∀ b, i ≠ .evSetPws b) → t.pws = s.pws)

/-- No input event changes VMCR, VTR, APR[1..3], an HCR field other than EOICount, or a slot at or beyond N_LR (R205). -/
def Obligations.EventsLeaveControlStateAlone : Prop :=
  ∀ (i : Instr) (s t : State), (requestKind i).isEvent = true → exec i s = .next t →
    t.vmcr = s.vmcr ∧ vtrWord t.cfg = vtrWord s.cfg ∧ (∀ n : AprIndex, n ≠ 0 → t.apr[n] = s.apr[n]) ∧
    { t.hcr with eoiCount := s.hcr.eoiCount } = s.hcr ∧
    ∀ j : SlotIndex, s.cfg.nLr ≤ j.val → t.lr[j] = s.lr[j] ∧ t.eoif[j] = s.eoif[j]
end

