-- ==== Sys2Proof/Laws/Codec.lean ====
section
/-!
SUPPORT. The bits of the operand forms: single-bit words, slot-state and group codes, masks and priority bits.
-/
namespace Sys2Proof.Machine

@[simp] theorem SlotState.ofCode_code (st : SlotState) : SlotState.ofCode st.code = st := by
  cases st <;> rfl

@[simp] theorem SlotState.code_ofCode (c : BitVec 2) : (SlotState.ofCode c).code = c := by
  revert c; decide

@[simp] theorem Group.ofCode_code (g : Group) : Group.ofCode g.code = g := by cases g <;> rfl

@[simp] theorem Group.code_ofCode (b : Bool) : (Group.ofCode b).code = b := by cases b <;> rfl

/-- Bit 1 of a slot state's code is the active bit (R24). -/
theorem isActive_eq_code_bit (st : SlotState) : st.isActive = st.code.getLsbD 1 := by cases st <;> rfl

/-- Bit 0 of a slot state's code is the pending bit (R24). -/
theorem isPending_eq_code_bit (st : SlotState) : st.isPending = st.code.getLsbD 0 := by cases st <;> rfl

/-- The bits of a word with at most one bit set. -/
theorem bitAt_getLsbD (b : Bool) (k j : Nat) :
    (bitAt b k).getLsbD j = (decide (j < 32) && decide (j = k) && b) := by
  have h : ∀ n, (BitVec.ofBool b).getLsbD n = (decide (n = 0) && b) := by
    intro n
    cases b <;> simp [BitVec.ofBool]
  simp only [bitAt, BitVec.getLsbD_shiftLeft, BitVec.getLsbD_setWidth, h]
  rcases Nat.lt_trichotomy j k with hlt | heq | hgt
  · simp [hlt, Nat.ne_of_lt hlt]
  · subst heq; simp
  · have h1 : ¬ j < k := by omega
    have h2 : j - k ≠ 0 := by omega
    have h3 : j ≠ k := by omega
    simp [h1, h2, h3]

/-- The one bit of a priority's word (R146). -/
theorem priorityBit_getLsbD (p : Priority) (j : Nat) :
    (priorityBit p).getLsbD j = decide (j = p.toNat) := by
  have hp := p.isLt
  simp only [priorityBit, BitVec.getLsbD_shiftLeft, BitVec.getLsbD_one]
  rcases Nat.lt_trichotomy j p.toNat with h | h | h
  · simp [h, Nat.ne_of_lt h]
  · subst h; simp; omega
  · have h1 : ¬ j < p.toNat := by omega
    have h2 : ¬ j - p.toNat = 0 := by omega
    have h3 : j ≠ p.toNat := by omega
    simp [h1, h3]
    omega

/-- Two priorities have one bit only when they are equal. -/
theorem priority_toNat_eq_iff (p q : Priority) : p.toNat = q.toNat ↔ p = q := BitVec.toNat_inj

/-- The bits a 1-byte access carries (R66). -/
theorem widthMask_one_getLsbD (k : Nat) : (widthMask 1#4).getLsbD k = decide (k < 8) := by
  have h : widthMask 1#4 = BitVec.setWidth 32 (BitVec.allOnes 8) := by decide
  rw [h]
  simp only [BitVec.getLsbD_setWidth, BitVec.getLsbD_allOnes]
  by_cases hk : k < 8 <;> simp [hk] ; omega

/-- The bits a 2-byte access carries (R67). -/
theorem widthMask_two_getLsbD (k : Nat) : (widthMask 2#4).getLsbD k = decide (k < 16) := by
  have h : widthMask 2#4 = BitVec.setWidth 32 (BitVec.allOnes 16) := by decide
  rw [h]
  simp only [BitVec.getLsbD_setWidth, BitVec.getLsbD_allOnes]
  by_cases hk : k < 16 <;> simp [hk] ; omega

/-- EOICount counts up to 31 and stays there (R203). -/
theorem saturatingSucc_toNat (n : BitVec 5) : (saturatingSucc n).toNat = min (n.toNat + 1) 31 := by
  revert n; decide

/-- What a bus write hands to its register (R69-R72): four cases. -/
theorem storedWord_cases (mode : SubwordWriteMode) (size : BitVec 4) (lane : BitVec 2) (data old : Word) :
    (size = 4#4 ∧ storedWord mode size lane data old = some data) ∨
    ((size = 1#4 ∨ size = 2#4) ∧ mode = .merge ∧
      storedWord mode size lane data old = some (mergeBytes size lane data old)) ∨
    ((size = 1#4 ∨ size = 2#4) ∧ mode = .rawForward ∧
      storedWord mode size lane data old = some (carriedData size data)) ∨
    (size ≠ 4#4 ∧ size ≠ 1#4 ∧ size ≠ 2#4 ∧ storedWord mode size lane data old = none) := by
  by_cases h4 : size = 4#4
  · exact .inl ⟨h4, by simp [storedWord, h4]⟩
  · by_cases h : size = 1#4 ∨ size = 2#4
    · cases mode
      · exact .inr (.inl ⟨h, rfl, by simp only [storedWord, if_neg h4, if_pos h]⟩)
      · exact .inr (.inr (.inl ⟨h, rfl, by simp only [storedWord, if_neg h4, if_pos h]⟩))
    · exact .inr (.inr (.inr ⟨h4, fun e => h (.inl e), fun e => h (.inr e), by
        simp only [storedWord, if_neg h4, if_neg h]⟩))

end Sys2Proof.Machine
end

