-- ==== Sys2Proof/Laws/Decode.lean ====
section
/-!
SUPPORT. The fields of a descriptor, the register map against its inverse, and the decoding of an encoded bus request.
-/
namespace Sys2Proof

section Fields
variable (kind : BitVec 2) (size : BitVec 4) (woff : BitVec 10) (lane : BitVec 2)

/-- Masking a descriptor masks its fields. -/
theorem busDesc_and (kind' : BitVec 2) (size' : BitVec 4) (woff' : BitVec 10) (lane' : BitVec 2) :
    busDesc kind size woff lane &&& busDesc kind' size' woff' lane' =
      busDesc (kind &&& kind') (size &&& size') (woff &&& woff') (lane &&& lane') := by
  apply BitVec.eq_of_getLsbD_eq
  intro k _
  simp only [busDesc, BitVec.getLsbD_and, BitVec.getLsbD_append]
  split
  · rfl
  · split
    · rfl
    · split <;> rfl

@[simp] theorem kindField_busDesc : kindField (busDesc kind size woff lane) = kind := by
  simp only [kindField, busDesc]
  apply BitVec.eq_of_getLsbD_eq
  intro k hk
  simp only [BitVec.getLsbD_extractLsb', BitVec.getLsbD_append]
  have h1 : ¬ 16 + k < 2 := by omega
  have h2 : ¬ 16 + k - 2 < 10 := by omega
  have h3 : ¬ 16 + k - 2 - 10 < 4 := by omega
  have h4 : 16 + k - 2 - 10 - 4 = k := by omega
  simp [hk, h1, h2, h3, h4]

@[simp] theorem sizeField_busDesc : sizeField (busDesc kind size woff lane) = size := by
  simp only [sizeField, busDesc]
  apply BitVec.eq_of_getLsbD_eq
  intro k hk
  simp only [BitVec.getLsbD_extractLsb', BitVec.getLsbD_append]
  have h1 : ¬ 12 + k < 2 := by omega
  have h2 : ¬ 12 + k - 2 < 10 := by omega
  have h4 : 12 + k - 2 - 10 = k := by omega
  simp [hk, h1, h2, h4]

@[simp] theorem woffField_busDesc : woffField (busDesc kind size woff lane) = woff := by
  simp only [woffField, busDesc]
  apply BitVec.eq_of_getLsbD_eq
  intro k hk
  simp only [BitVec.getLsbD_extractLsb', BitVec.getLsbD_append]
  have h1 : ¬ 2 + k < 2 := by omega
  have h4 : 2 + k - 2 = k := by omega
  simp [hk, h1, h4]

@[simp] theorem laneField_busDesc : laneField (busDesc kind size woff lane) = lane := by
  simp only [laneField, busDesc]
  apply BitVec.eq_of_getLsbD_eq
  intro k hk
  simp only [BitVec.getLsbD_extractLsb', BitVec.getLsbD_append]
  simp [hk]

end Fields

/-- A descriptor is its four fields. -/
theorem busDesc_fields (desc : Descriptor) :
    busDesc (kindField desc) (sizeField desc) (woffField desc) (laneField desc) = desc := by
  apply BitVec.eq_of_getLsbD_eq
  intro k hk
  simp only [busDesc, kindField, sizeField, woffField, laneField, BitVec.getLsbD_append,
    BitVec.getLsbD_extractLsb']
  by_cases h1 : k < 2
  · simp [h1]
  · by_cases h2 : k - 2 < 10
    · have : 2 + (k - 2) = k := by omega
      simp [h1, h2, this]
    · by_cases h3 : k - 2 - 10 < 4
      · have : 12 + (k - 2 - 10) = k := by omega
        simp [h1, h2, h3, this]
      · have h4 : k - 2 - 10 - 4 < 2 := by omega
        have : 16 + (k - 2 - 10 - 4) = k := by omega
        simp [h1, h2, h3, h4, this]

/-- The register map gives back each register that has a place of its own. -/
theorem regAt_regWoff (r : Reg) (h : ∀ woff, r ≠ .rsvd woff) : regAt (regWoff r) = r := by
  cases r with
  | apr n => revert n; decide
  | lr n => revert n; decide
  | rsvd woff => exact absurd rfl (h woff)
  | _ => rfl

/-- A bus-read descriptor decodes to the read of the register at its word offset. -/
theorem decode_busDesc_read (size : BitVec 4) (woff : BitVec 10) (lane : BitVec 2) (data : Word) :
    decode (busDesc 0#2 size woff lane) data = .ok (readInstr (regAt woff) size lane) := by
  simp [decode]

/-- A bus-write descriptor decodes to the write of the register at its word offset. -/
theorem decode_busDesc_write (size : BitVec 4) (woff : BitVec 10) (lane : BitVec 2) (data : Word) :
    decode (busDesc 1#2 size woff lane) data = .ok (writeInstr (regAt woff) size lane data) := by
  simp [decode]

end Sys2Proof
end

