-- ==== Sys2Proof/Laws/State.lean ====
section
/-!
SUPPORT. One lemma per field per update of the state, so that no proof unfolds a record update.
-/
namespace Sys2Proof.Machine

variable (s : State)

@[simp] theorem State.setSlot_cfg (i : SlotIndex) (x : Slot) : (s.setSlot i x).cfg = s.cfg := rfl
@[simp] theorem State.setSlot_lr (i : SlotIndex) (x : Slot) : (s.setSlot i x).lr = s.lr.set i x := rfl
@[simp] theorem State.setSlot_eoif (i : SlotIndex) (x : Slot) : (s.setSlot i x).eoif = s.eoif := rfl
@[simp] theorem State.setSlot_pws (i : SlotIndex) (x : Slot) : (s.setSlot i x).pws = s.pws := rfl
@[simp] theorem State.setSlot_hcr (i : SlotIndex) (x : Slot) : (s.setSlot i x).hcr = s.hcr := rfl
@[simp] theorem State.setSlot_vmcr (i : SlotIndex) (x : Slot) : (s.setSlot i x).vmcr = s.vmcr := rfl
@[simp] theorem State.setSlot_apr (i : SlotIndex) (x : Slot) : (s.setSlot i x).apr = s.apr := rfl
@[simp] theorem State.setSlot_inbox (i : SlotIndex) (x : Slot) : (s.setSlot i x).inbox = s.inbox := rfl
@[simp] theorem State.setSlot_result (i : SlotIndex) (x : Slot) : (s.setSlot i x).result = s.result := rfl
@[simp] theorem State.setSlot_impl (i : SlotIndex) (x : Slot) (k : SlotIndex) : (s.setSlot i x).impl k = s.impl k := rfl

@[simp] theorem State.setEoif_cfg (i : SlotIndex) (b : Bool) : (s.setEoif i b).cfg = s.cfg := rfl
@[simp] theorem State.setEoif_lr (i : SlotIndex) (b : Bool) : (s.setEoif i b).lr = s.lr := rfl
@[simp] theorem State.setEoif_eoif (i : SlotIndex) (b : Bool) : (s.setEoif i b).eoif = s.eoif.set i b := rfl
@[simp] theorem State.setEoif_pws (i : SlotIndex) (b : Bool) : (s.setEoif i b).pws = s.pws := rfl
@[simp] theorem State.setEoif_hcr (i : SlotIndex) (b : Bool) : (s.setEoif i b).hcr = s.hcr := rfl
@[simp] theorem State.setEoif_vmcr (i : SlotIndex) (b : Bool) : (s.setEoif i b).vmcr = s.vmcr := rfl
@[simp] theorem State.setEoif_apr (i : SlotIndex) (b : Bool) : (s.setEoif i b).apr = s.apr := rfl
@[simp] theorem State.setEoif_inbox (i : SlotIndex) (b : Bool) : (s.setEoif i b).inbox = s.inbox := rfl
@[simp] theorem State.setEoif_result (i : SlotIndex) (b : Bool) : (s.setEoif i b).result = s.result := rfl
@[simp] theorem State.setEoif_impl (i : SlotIndex) (b : Bool) (k : SlotIndex) : (s.setEoif i b).impl k = s.impl k := rfl

@[simp] theorem State.setPws_cfg (b : Bool) : (s.setPws b).cfg = s.cfg := rfl
@[simp] theorem State.setPws_lr (b : Bool) : (s.setPws b).lr = s.lr := rfl
@[simp] theorem State.setPws_eoif (b : Bool) : (s.setPws b).eoif = s.eoif := rfl
@[simp] theorem State.setPws_pws (b : Bool) : (s.setPws b).pws = b := rfl
@[simp] theorem State.setPws_hcr (b : Bool) : (s.setPws b).hcr = s.hcr := rfl
@[simp] theorem State.setPws_vmcr (b : Bool) : (s.setPws b).vmcr = s.vmcr := rfl
@[simp] theorem State.setPws_apr (b : Bool) : (s.setPws b).apr = s.apr := rfl
@[simp] theorem State.setPws_inbox (b : Bool) : (s.setPws b).inbox = s.inbox := rfl
@[simp] theorem State.setPws_result (b : Bool) : (s.setPws b).result = s.result := rfl
@[simp] theorem State.setPws_impl (b : Bool) (k : SlotIndex) : (s.setPws b).impl k = s.impl k := rfl

@[simp] theorem State.setHcr_cfg (h : Hcr) : (s.setHcr h).cfg = s.cfg := rfl
@[simp] theorem State.setHcr_lr (h : Hcr) : (s.setHcr h).lr = s.lr := rfl
@[simp] theorem State.setHcr_eoif (h : Hcr) : (s.setHcr h).eoif = s.eoif := rfl
@[simp] theorem State.setHcr_pws (h : Hcr) : (s.setHcr h).pws = s.pws := rfl
@[simp] theorem State.setHcr_hcr (h : Hcr) : (s.setHcr h).hcr = h := rfl
@[simp] theorem State.setHcr_vmcr (h : Hcr) : (s.setHcr h).vmcr = s.vmcr := rfl
@[simp] theorem State.setHcr_apr (h : Hcr) : (s.setHcr h).apr = s.apr := rfl
@[simp] theorem State.setHcr_inbox (h : Hcr) : (s.setHcr h).inbox = s.inbox := rfl
@[simp] theorem State.setHcr_result (h : Hcr) : (s.setHcr h).result = s.result := rfl
@[simp] theorem State.setHcr_impl (h : Hcr) (k : SlotIndex) : (s.setHcr h).impl k = s.impl k := rfl

@[simp] theorem State.setVmcr_cfg (m : Vmcr) : (s.setVmcr m).cfg = s.cfg := rfl
@[simp] theorem State.setVmcr_lr (m : Vmcr) : (s.setVmcr m).lr = s.lr := rfl
@[simp] theorem State.setVmcr_eoif (m : Vmcr) : (s.setVmcr m).eoif = s.eoif := rfl
@[simp] theorem State.setVmcr_pws (m : Vmcr) : (s.setVmcr m).pws = s.pws := rfl
@[simp] theorem State.setVmcr_hcr (m : Vmcr) : (s.setVmcr m).hcr = s.hcr := rfl
@[simp] theorem State.setVmcr_vmcr (m : Vmcr) : (s.setVmcr m).vmcr = m := rfl
@[simp] theorem State.setVmcr_apr (m : Vmcr) : (s.setVmcr m).apr = s.apr := rfl
@[simp] theorem State.setVmcr_inbox (m : Vmcr) : (s.setVmcr m).inbox = s.inbox := rfl
@[simp] theorem State.setVmcr_result (m : Vmcr) : (s.setVmcr m).result = s.result := rfl
@[simp] theorem State.setVmcr_impl (m : Vmcr) (k : SlotIndex) : (s.setVmcr m).impl k = s.impl k := rfl

@[simp] theorem State.setApr_cfg (n : AprIndex) (v : Word) : (s.setApr n v).cfg = s.cfg := rfl
@[simp] theorem State.setApr_lr (n : AprIndex) (v : Word) : (s.setApr n v).lr = s.lr := rfl
@[simp] theorem State.setApr_eoif (n : AprIndex) (v : Word) : (s.setApr n v).eoif = s.eoif := rfl
@[simp] theorem State.setApr_pws (n : AprIndex) (v : Word) : (s.setApr n v).pws = s.pws := rfl
@[simp] theorem State.setApr_hcr (n : AprIndex) (v : Word) : (s.setApr n v).hcr = s.hcr := rfl
@[simp] theorem State.setApr_vmcr (n : AprIndex) (v : Word) : (s.setApr n v).vmcr = s.vmcr := rfl
@[simp] theorem State.setApr_apr (n : AprIndex) (v : Word) : (s.setApr n v).apr = s.apr.set n v := rfl
@[simp] theorem State.setApr_inbox (n : AprIndex) (v : Word) : (s.setApr n v).inbox = s.inbox := rfl
@[simp] theorem State.setApr_result (n : AprIndex) (v : Word) : (s.setApr n v).result = s.result := rfl
@[simp] theorem State.setApr_impl (n : AprIndex) (v : Word) (k : SlotIndex) : (s.setApr n v).impl k = s.impl k := rfl

@[simp] theorem State.setInbox_cfg (rs : List Request) : (s.setInbox rs).cfg = s.cfg := rfl
@[simp] theorem State.setInbox_lr (rs : List Request) : (s.setInbox rs).lr = s.lr := rfl
@[simp] theorem State.setInbox_eoif (rs : List Request) : (s.setInbox rs).eoif = s.eoif := rfl
@[simp] theorem State.setInbox_pws (rs : List Request) : (s.setInbox rs).pws = s.pws := rfl
@[simp] theorem State.setInbox_hcr (rs : List Request) : (s.setInbox rs).hcr = s.hcr := rfl
@[simp] theorem State.setInbox_vmcr (rs : List Request) : (s.setInbox rs).vmcr = s.vmcr := rfl
@[simp] theorem State.setInbox_apr (rs : List Request) : (s.setInbox rs).apr = s.apr := rfl
@[simp] theorem State.setInbox_inbox (rs : List Request) : (s.setInbox rs).inbox = rs := rfl
@[simp] theorem State.setInbox_result (rs : List Request) : (s.setInbox rs).result = s.result := rfl
@[simp] theorem State.setInbox_impl (rs : List Request) (k : SlotIndex) : (s.setInbox rs).impl k = s.impl k := rfl

@[simp] theorem State.answer_cfg (r : Result) : (s.answer r).cfg = s.cfg := rfl
@[simp] theorem State.answer_lr (r : Result) : (s.answer r).lr = s.lr := rfl
@[simp] theorem State.answer_eoif (r : Result) : (s.answer r).eoif = s.eoif := rfl
@[simp] theorem State.answer_pws (r : Result) : (s.answer r).pws = s.pws := rfl
@[simp] theorem State.answer_hcr (r : Result) : (s.answer r).hcr = s.hcr := rfl
@[simp] theorem State.answer_vmcr (r : Result) : (s.answer r).vmcr = s.vmcr := rfl
@[simp] theorem State.answer_apr (r : Result) : (s.answer r).apr = s.apr := rfl
@[simp] theorem State.answer_inbox (r : Result) : (s.answer r).inbox = s.inbox := rfl
@[simp] theorem State.answer_result (r : Result) : (s.answer r).result = some r := rfl
@[simp] theorem State.answer_impl (r : Result) (k : SlotIndex) : (s.answer r).impl k = s.impl k := rfl

@[simp] theorem State.setInbox_setInbox (rs rs' : List Request) : (s.setInbox rs).setInbox rs' = s.setInbox rs' := rfl

@[simp] theorem State.created_cfg (c : Config) : (State.created c).cfg = c := rfl

@[simp] theorem State.created_lr (c : Config) : (State.created c).lr = Vector.replicate 16 Slot.zero := rfl

@[simp] theorem State.created_eoif (c : Config) : (State.created c).eoif = Vector.replicate 16 false := rfl

@[simp] theorem State.created_pws (c : Config) : (State.created c).pws = false := rfl

@[simp] theorem State.created_hcr (c : Config) : (State.created c).hcr = Hcr.zero := rfl

@[simp] theorem State.created_vmcr (c : Config) : (State.created c).vmcr = Vmcr.zero := rfl

@[simp] theorem State.created_apr (c : Config) : (State.created c).apr = Vector.replicate 4 0#32 := rfl

@[simp] theorem State.created_inbox (c : Config) : (State.created c).inbox = [] := rfl

@[simp] theorem State.created_result (c : Config) : (State.created c).result = none := rfl

/-- A slot is implemented exactly when its index is below N_LR. -/
theorem impl_iff (i : SlotIndex) : s.impl i = true ↔ i.val < s.cfg.nLr := by simp [State.impl]

/-- A slot is not implemented exactly when its index is N_LR or more. -/
theorem impl_eq_false_iff (i : SlotIndex) : s.impl i = false ↔ s.cfg.nLr ≤ i.val := by simp [State.impl]

/-- N_LR is at least 1 and at most 16 in every configuration. -/
theorem nLr_bounds (c : Config) : 1 ≤ c.nLr ∧ c.nLr ≤ 16 := by
  have := c.listRegs.isLt
  simp only [Config.nLr]
  omega

/-- Slot k after slot i is replaced. -/
theorem setSlot_lr_get (i k : SlotIndex) (x : Slot) :
    (s.setSlot i x).lr[k] = if k = i then x else s.lr[k] := by
  simp only [State.setSlot_lr, Fin.getElem_fin, Vector.getElem_set, Fin.ext_iff, eq_comm]

/-- The EOI flag of slot k after the flag of slot i is set. -/
theorem setEoif_eoif_get (i k : SlotIndex) (b : Bool) :
    (s.setEoif i b).eoif[k] = if k = i then b else s.eoif[k] := by
  simp only [State.setEoif_eoif, Fin.getElem_fin, Vector.getElem_set, Fin.ext_iff, eq_comm]

/-- Active-priority word k after word n is replaced. -/
theorem setApr_apr_get (n k : AprIndex) (v : Word) :
    (s.setApr n v).apr[k] = if k = n then v else s.apr[k] := by
  simp only [State.setApr_apr, Fin.getElem_fin, Vector.getElem_set, Fin.ext_iff, eq_comm]

end Sys2Proof.Machine
end

