-- ==== Sys2Proof/Laws/Priority.lean ====
section
/-!
SUPPORT. What eligibility means field by field, and that the slot HPPI answers is eligible.
-/
namespace Sys2Proof.Machine

variable (s : State)

/-- The four conditions of eligibility (R190). -/
theorem eligible_iff (i : SlotIndex) :
    eligible s i = true ↔ i.val < s.cfg.nLr ∧ s.lr[i].state.isPending = true ∧
      groupEnabled s.vmcr s.lr[i].grp = true ∧ s.lr[i].pri.toNat < s.vmcr.vpmr.toNat := by
  simp only [eligible, Bool.and_eq_true, impl_iff, decide_eq_true_eq, BitVec.lt_def, and_assoc]

/-- The running best is the old best or the slot just met, which is then eligible (R191). -/
theorem betterSlot_some {best : Option SlotIndex} {i k : SlotIndex} (h : betterSlot s best i = some k) :
    best = some k ∨ (k = i ∧ eligible s i = true) := by
  unfold betterSlot at h
  split at h
  · rename_i he
    split at h
    · exact .inr ⟨(Option.some.inj h).symm, he⟩
    · split at h
      · exact .inr ⟨(Option.some.inj h).symm, he⟩
      · exact .inl h
  · exact .inl h

/-- The best of a list of slots is the starting one or an eligible one. -/
theorem foldl_betterSlot_some (l : List SlotIndex) {best : Option SlotIndex} {k : SlotIndex}
    (h : l.foldl (betterSlot s) best = some k) : best = some k ∨ eligible s k = true := by
  induction l generalizing best with
  | nil => exact .inl h
  | cons i l ih =>
    rcases ih h with h1 | h1
    · rcases betterSlot_some s h1 with h2 | ⟨rfl, h2⟩
      · exact .inl h2
      · exact .inr h2
    · exact .inr h1

/-- The slot HPPI answers is eligible (R191). -/
theorem hppi_eligible {k : SlotIndex} (h : hppi s = some k) : eligible s k = true := by
  rcases foldl_betterSlot_some s _ h with h1 | h1
  · cases h1
  · exact h1

end Sys2Proof.Machine
end

