-- ==== Sys2Proof/Laws/Ops.lean ====
section
/-!
SUPPORT. What each shared operation of Machine/Ops.lean can do, said once: the cases of the bookkeeping operations, the
fields each operation leaves alone, and the bits of APR[0] after a record or a release.
-/
namespace Sys2Proof.Machine

variable (s : State)

/-! ### The bits of APR[0] -/

/-- The bits of APR[0] after a record (R146). -/
theorem aprRecord_bit (p q : Priority) :
    (aprRecord p s).apr[0].getLsbD q.toNat = (s.apr[0].getLsbD q.toNat || decide (q = p)) := by
  have hq : q.toNat < 32 := q.isLt
  simp [aprRecord, priorityBit_getLsbD, priority_toNat_eq_iff]

/-- The bits of APR[0] after a clear (R147). -/
theorem aprClear_bit (p q : Priority) :
    (aprClear p s).apr[0].getLsbD q.toNat = (s.apr[0].getLsbD q.toNat && !decide (q = p)) := by
  have hq : q.toNat < 32 := q.isLt
  have h : (aprClear p s).apr[0] = s.apr[0] &&& ~~~priorityBit p := by simp [aprClear]
  rw [h, BitVec.getLsbD_and, BitVec.getLsbD_not, priorityBit_getLsbD]
  simp [hq, priority_toNat_eq_iff]

/-- Some implemented slot is active at priority p. -/
theorem activeAt_iff (p : Priority) :
    activeAt s p = true ↔ ∃ j : SlotIndex, j.val < s.cfg.nLr ∧ s.lr[j].state.isActive = true ∧ s.lr[j].pri = p := by
  simp [activeAt, impl_iff, and_assoc]

/-! ### The cases of the bookkeeping operations -/

/-- A release clears the old priority's bit or does nothing (R147). -/
theorem aprRelease_cases (old new : Slot) :
    (releases old new = true ∧ activeAt s old.pri = false ∧ aprRelease old new s = aprClear old.pri s) ∨
    ((releases old new = false ∨ activeAt s old.pri = true) ∧ aprRelease old new s = s) := by
  cases h1 : releases old new <;> cases h2 : activeAt s old.pri <;> simp [aprRelease, h1, h2]

/-- A record on a write sets the new priority's bit or does nothing (R146). -/
theorem aprRecordOnWrite_cases (new : Slot) :
    (new.state.isActive = true ∧ aprRecordOnWrite new s = aprRecord new.pri s) ∨
    (new.state.isActive = false ∧ aprRecordOnWrite new s = s) := by
  cases h : new.state.isActive <;> simp [aprRecordOnWrite, h]

/-- A write clears the EOI flag, except for Inactive over Inactive (R144). -/
theorem eoifOnWrite_cases (i : SlotIndex) (old new : Slot) :
    (old.state = .inactive ∧ new.state = .inactive ∧ eoifOnWrite i old new s = s) ∨
    (¬(old.state = .inactive ∧ new.state = .inactive) ∧ eoifOnWrite i old new s = s.setEoif i false) := by
  by_cases h1 : old.state = .inactive <;> by_cases h2 : new.state = .inactive <;>
    simp [eoifOnWrite, h1, h2]

/-! ### What the APR and EOIF operations leave alone -/

/-- A property of states that APR[0] plays no part in survives a release. -/
theorem aprRelease_field {α : Type} (f : State → α) (h : ∀ (v : Word) (t : State), f (t.setApr 0 v) = f t)
    (old new : Slot) : f (aprRelease old new s) = f s := by
  unfold aprRelease
  split
  · exact h _ _
  · rfl

/-- A property of states that APR[0] plays no part in survives a record. -/
theorem aprRecordOnWrite_field {α : Type} (f : State → α) (h : ∀ (v : Word) (t : State), f (t.setApr 0 v) = f t)
    (new : Slot) : f (aprRecordOnWrite new s) = f s := by
  unfold aprRecordOnWrite
  split
  · exact h _ _
  · rfl

/-- A property of states that the EOI flags play no part in survives `EoifOnWrite`. -/
theorem eoifOnWrite_field {α : Type} (f : State → α) (h : ∀ (k : SlotIndex) (b : Bool) (t : State), f (t.setEoif k b) = f t)
    (i : SlotIndex) (old new : Slot) : f (eoifOnWrite i old new s) = f s := by
  unfold eoifOnWrite
  split
  · rfl
  · exact h _ _ _

@[simp] theorem aprRelease_cfg (old new : Slot) : (aprRelease old new s).cfg = s.cfg :=
  aprRelease_field s (·.cfg) (fun _ _ => rfl) old new

@[simp] theorem aprRecordOnWrite_cfg (new : Slot) : (aprRecordOnWrite new s).cfg = s.cfg :=
  aprRecordOnWrite_field s (·.cfg) (fun _ _ => rfl) new

@[simp] theorem eoifOnWrite_cfg (i : SlotIndex) (old new : Slot) : (eoifOnWrite i old new s).cfg = s.cfg :=
  eoifOnWrite_field s (·.cfg) (fun _ _ _ => rfl) i old new

@[simp] theorem aprRelease_lr (old new : Slot) : (aprRelease old new s).lr = s.lr :=
  aprRelease_field s (·.lr) (fun _ _ => rfl) old new

@[simp] theorem aprRecordOnWrite_lr (new : Slot) : (aprRecordOnWrite new s).lr = s.lr :=
  aprRecordOnWrite_field s (·.lr) (fun _ _ => rfl) new

@[simp] theorem eoifOnWrite_lr (i : SlotIndex) (old new : Slot) : (eoifOnWrite i old new s).lr = s.lr :=
  eoifOnWrite_field s (·.lr) (fun _ _ _ => rfl) i old new

@[simp] theorem aprRelease_eoif (old new : Slot) : (aprRelease old new s).eoif = s.eoif :=
  aprRelease_field s (·.eoif) (fun _ _ => rfl) old new

@[simp] theorem aprRecordOnWrite_eoif (new : Slot) : (aprRecordOnWrite new s).eoif = s.eoif :=
  aprRecordOnWrite_field s (·.eoif) (fun _ _ => rfl) new

@[simp] theorem aprRelease_pws (old new : Slot) : (aprRelease old new s).pws = s.pws :=
  aprRelease_field s (·.pws) (fun _ _ => rfl) old new

@[simp] theorem aprRecordOnWrite_pws (new : Slot) : (aprRecordOnWrite new s).pws = s.pws :=
  aprRecordOnWrite_field s (·.pws) (fun _ _ => rfl) new

@[simp] theorem eoifOnWrite_pws (i : SlotIndex) (old new : Slot) : (eoifOnWrite i old new s).pws = s.pws :=
  eoifOnWrite_field s (·.pws) (fun _ _ _ => rfl) i old new

@[simp] theorem aprRelease_hcr (old new : Slot) : (aprRelease old new s).hcr = s.hcr :=
  aprRelease_field s (·.hcr) (fun _ _ => rfl) old new

@[simp] theorem aprRecordOnWrite_hcr (new : Slot) : (aprRecordOnWrite new s).hcr = s.hcr :=
  aprRecordOnWrite_field s (·.hcr) (fun _ _ => rfl) new

@[simp] theorem eoifOnWrite_hcr (i : SlotIndex) (old new : Slot) : (eoifOnWrite i old new s).hcr = s.hcr :=
  eoifOnWrite_field s (·.hcr) (fun _ _ _ => rfl) i old new

@[simp] theorem aprRelease_vmcr (old new : Slot) : (aprRelease old new s).vmcr = s.vmcr :=
  aprRelease_field s (·.vmcr) (fun _ _ => rfl) old new

@[simp] theorem aprRecordOnWrite_vmcr (new : Slot) : (aprRecordOnWrite new s).vmcr = s.vmcr :=
  aprRecordOnWrite_field s (·.vmcr) (fun _ _ => rfl) new

@[simp] theorem eoifOnWrite_vmcr (i : SlotIndex) (old new : Slot) : (eoifOnWrite i old new s).vmcr = s.vmcr :=
  eoifOnWrite_field s (·.vmcr) (fun _ _ _ => rfl) i old new

@[simp] theorem aprRelease_inbox (old new : Slot) : (aprRelease old new s).inbox = s.inbox :=
  aprRelease_field s (·.inbox) (fun _ _ => rfl) old new

@[simp] theorem aprRecordOnWrite_inbox (new : Slot) : (aprRecordOnWrite new s).inbox = s.inbox :=
  aprRecordOnWrite_field s (·.inbox) (fun _ _ => rfl) new

@[simp] theorem eoifOnWrite_inbox (i : SlotIndex) (old new : Slot) : (eoifOnWrite i old new s).inbox = s.inbox :=
  eoifOnWrite_field s (·.inbox) (fun _ _ _ => rfl) i old new

@[simp] theorem aprRelease_result (old new : Slot) : (aprRelease old new s).result = s.result :=
  aprRelease_field s (·.result) (fun _ _ => rfl) old new

@[simp] theorem aprRecordOnWrite_result (new : Slot) : (aprRecordOnWrite new s).result = s.result :=
  aprRecordOnWrite_field s (·.result) (fun _ _ => rfl) new

@[simp] theorem eoifOnWrite_result (i : SlotIndex) (old new : Slot) : (eoifOnWrite i old new s).result = s.result :=
  eoifOnWrite_field s (·.result) (fun _ _ _ => rfl) i old new

@[simp] theorem eoifOnWrite_apr (i : SlotIndex) (old new : Slot) : (eoifOnWrite i old new s).apr = s.apr :=
  eoifOnWrite_field s (·.apr) (fun _ _ _ => rfl) i old new

/-- A release changes no active-priority word but APR[0]. -/
theorem aprRelease_apr_get (old new : Slot) (n : AprIndex) (h : n ≠ 0) :
    (aprRelease old new s).apr[n] = s.apr[n] :=
  aprRelease_field s (·.apr[n]) (fun v t => by rw [setApr_apr_get, if_neg h]) old new

/-- A record changes no active-priority word but APR[0]. -/
theorem aprRecordOnWrite_apr_get (new : Slot) (n : AprIndex) (h : n ≠ 0) :
    (aprRecordOnWrite new s).apr[n] = s.apr[n] :=
  aprRecordOnWrite_field s (·.apr[n]) (fun v t => by rw [setApr_apr_get, if_neg h]) new

@[simp] theorem replaceSlot_cfg (i : SlotIndex) (old new : Slot) : (replaceSlot i old new s).cfg = s.cfg := by
  simp [replaceSlot]

@[simp] theorem lrWrite_cfg (i : SlotIndex) (v : Word) : (lrWrite i v s).cfg = s.cfg := by
  unfold lrWrite
  split <;> simp

@[simp] theorem activateSlot_cfg (i : SlotIndex) : (activateSlot i s).cfg = s.cfg := rfl

@[simp] theorem endSlot_cfg (i : SlotIndex) : (endSlot i s).cfg = s.cfg := by
  simp only [endSlot, aprRelease_cfg]
  split <;> rfl

@[simp] theorem replaceSlot_pws (i : SlotIndex) (old new : Slot) : (replaceSlot i old new s).pws = s.pws := by
  simp [replaceSlot]

@[simp] theorem lrWrite_pws (i : SlotIndex) (v : Word) : (lrWrite i v s).pws = s.pws := by
  unfold lrWrite
  split <;> simp

@[simp] theorem activateSlot_pws (i : SlotIndex) : (activateSlot i s).pws = s.pws := rfl

@[simp] theorem endSlot_pws (i : SlotIndex) : (endSlot i s).pws = s.pws := by
  simp only [endSlot, aprRelease_pws]
  split <;> rfl

@[simp] theorem replaceSlot_hcr (i : SlotIndex) (old new : Slot) : (replaceSlot i old new s).hcr = s.hcr := by
  simp [replaceSlot]

@[simp] theorem lrWrite_hcr (i : SlotIndex) (v : Word) : (lrWrite i v s).hcr = s.hcr := by
  unfold lrWrite
  split <;> simp

@[simp] theorem activateSlot_hcr (i : SlotIndex) : (activateSlot i s).hcr = s.hcr := rfl

@[simp] theorem endSlot_hcr (i : SlotIndex) : (endSlot i s).hcr = s.hcr := by
  simp only [endSlot, aprRelease_hcr]
  split <;> rfl

@[simp] theorem replaceSlot_vmcr (i : SlotIndex) (old new : Slot) : (replaceSlot i old new s).vmcr = s.vmcr := by
  simp [replaceSlot]

@[simp] theorem lrWrite_vmcr (i : SlotIndex) (v : Word) : (lrWrite i v s).vmcr = s.vmcr := by
  unfold lrWrite
  split <;> simp

@[simp] theorem activateSlot_vmcr (i : SlotIndex) : (activateSlot i s).vmcr = s.vmcr := rfl

@[simp] theorem endSlot_vmcr (i : SlotIndex) : (endSlot i s).vmcr = s.vmcr := by
  simp only [endSlot, aprRelease_vmcr]
  split <;> rfl

@[simp] theorem replaceSlot_inbox (i : SlotIndex) (old new : Slot) : (replaceSlot i old new s).inbox = s.inbox := by
  simp [replaceSlot]

@[simp] theorem lrWrite_inbox (i : SlotIndex) (v : Word) : (lrWrite i v s).inbox = s.inbox := by
  unfold lrWrite
  split <;> simp

@[simp] theorem activateSlot_inbox (i : SlotIndex) : (activateSlot i s).inbox = s.inbox := rfl

@[simp] theorem endSlot_inbox (i : SlotIndex) : (endSlot i s).inbox = s.inbox := by
  simp only [endSlot, aprRelease_inbox]
  split <;> rfl

@[simp] theorem replaceSlot_result (i : SlotIndex) (old new : Slot) : (replaceSlot i old new s).result = s.result := by
  simp [replaceSlot]

@[simp] theorem lrWrite_result (i : SlotIndex) (v : Word) : (lrWrite i v s).result = s.result := by
  unfold lrWrite
  split <;> simp

@[simp] theorem activateSlot_result (i : SlotIndex) : (activateSlot i s).result = s.result := rfl

@[simp] theorem endSlot_result (i : SlotIndex) : (endSlot i s).result = s.result := by
  simp only [endSlot, aprRelease_result]
  split <;> rfl

@[simp] theorem activateSlot_eoif (i : SlotIndex) : (activateSlot i s).eoif = s.eoif := rfl

/-- A slot replacement changes no active-priority word but APR[0]. -/
theorem replaceSlot_apr_get (i : SlotIndex) (old new : Slot) (n : AprIndex) (h : n ≠ 0) :
    (replaceSlot i old new s).apr[n] = s.apr[n] := by
  rw [replaceSlot, aprRecordOnWrite_apr_get _ _ _ h, aprRelease_apr_get _ _ _ _ h, eoifOnWrite_apr,
    State.setSlot_apr]

/-- An EOI changes no active-priority word but APR[0]. -/
theorem endSlot_apr_get (i : SlotIndex) (n : AprIndex) (h : n ≠ 0) : (endSlot i s).apr[n] = s.apr[n] := by
  simp only [endSlot]
  rw [aprRelease_apr_get _ _ _ _ h]
  split <;> rfl

/-- An ACK changes no active-priority word but APR[0]. -/
theorem activateSlot_apr_get (i : SlotIndex) (n : AprIndex) (h : n ≠ 0) :
    (activateSlot i s).apr[n] = s.apr[n] := by
  rw [activateSlot, aprRecord, setApr_apr_get, if_neg h, State.setSlot_apr]

/-! ### The whole of a slot replacement (R142) -/

@[simp] theorem replaceSlot_lr (i : SlotIndex) (old new : Slot) :
    (replaceSlot i old new s).lr = s.lr.set i new := by simp [replaceSlot]

/-- The EOI flags after a slot replacement (R144). -/
theorem replaceSlot_eoif (i : SlotIndex) (old new : Slot) :
    (replaceSlot i old new s).eoif =
      if old.state = .inactive ∧ new.state = .inactive then s.eoif else s.eoif.set i false := by
  simp only [replaceSlot, aprRecordOnWrite_eoif, aprRelease_eoif]
  rcases eoifOnWrite_cases (s.setSlot i new) i old new with ⟨h1, h2, h⟩ | ⟨hn, h⟩
  · simp [h, h1, h2]
  · simp [h, if_neg hn]

/-- An LR write of an unimplemented slot is ignored (R142). -/
theorem lrWrite_unimplemented (i : SlotIndex) (v : Word) (h : s.impl i = false) : lrWrite i v s = s := by
  simp [lrWrite, h]

/-- An LR write of an implemented slot replaces it by the decoded word (R142). -/
theorem lrWrite_implemented (i : SlotIndex) (v : Word) (h : s.impl i = true) :
    lrWrite i v s = replaceSlot i s.lr[i] (decodeLR v) s := by
  simp [lrWrite, h]

/-- Which slots are active is read from the slots and N_LR alone. -/
theorem activeAt_congr {u : State} (hl : u.lr = s.lr) (hc : u.cfg = s.cfg) (p : Priority) :
    activeAt u p = activeAt s p := by
  simp only [activeAt, State.impl, hl, hc]

/-- A slot is active at its own priority when it is implemented and active. -/
theorem activeAt_setSlot {i : SlotIndex} {x : Slot} (hi : s.impl i = true) (hx : x.state.isActive = true) :
    activeAt (s.setSlot i x) x.pri = true := by
  rw [activeAt_iff]
  have h : (s.setSlot i x).lr[i] = x := by rw [setSlot_lr_get, if_pos rfl]
  exact ⟨i, (impl_iff s i).1 hi, by rw [h]; exact hx, by rw [h]⟩

/-- The bits of APR[0] after a release of `old` (R147). -/
theorem aprRelease_bit (old new : Slot) (p : Priority) :
    (aprRelease old new s).apr[0].getLsbD p.toNat =
      (s.apr[0].getLsbD p.toNat && !(releases old new && decide (p = old.pri) && !activeAt s p)) := by
  rcases aprRelease_cases s old new with ⟨h1, h2, h⟩ | ⟨h1, h⟩
  · by_cases hp : p = old.pri
    · subst hp; simp [h, aprClear_bit, h1, h2]
    · simp [h, aprClear_bit, hp]
  · by_cases hp : p = old.pri
    · subst hp; rcases h1 with h1 | h1 <;> simp [h, h1]
    · simp [h, hp]

/-- The bits of APR[0] after a record on a write of `new` (R146). -/
theorem aprRecordOnWrite_bit (new : Slot) (p : Priority) :
    (aprRecordOnWrite new s).apr[0].getLsbD p.toNat =
      (s.apr[0].getLsbD p.toNat || (new.state.isActive && decide (p = new.pri))) := by
  rcases aprRecordOnWrite_cases s new with ⟨h1, h⟩ | ⟨h1, h⟩
  · simp [h, aprRecord_bit, h1]
  · simp [h, h1]

/-- The bits of APR[0] after a slot replacement (R146, R147). -/
theorem replaceSlot_apr_bit (i : SlotIndex) (old new : Slot) (p : Priority) :
    (replaceSlot i old new s).apr[0].getLsbD p.toNat =
      ((s.apr[0].getLsbD p.toNat && !(releases old new && decide (p = old.pri) &&
        !activeAt (s.setSlot i new) p)) || (new.state.isActive && decide (p = new.pri))) := by
  rw [replaceSlot, aprRecordOnWrite_bit, aprRelease_bit]
  have h : activeAt (eoifOnWrite i old new (s.setSlot i new)) p = activeAt (s.setSlot i new) p :=
    activeAt_congr _ (eoifOnWrite_lr ..) (eoifOnWrite_cfg ..) p
  rw [h]
  simp only [eoifOnWrite_apr, State.setSlot_apr]

/-! ### The guest events' operations -/

/-- The bits of APR[0] after an ACK activates slot i (R200). -/
theorem activateSlot_apr_bit (i : SlotIndex) (p : Priority) :
    (activateSlot i s).apr[0].getLsbD p.toNat = (s.apr[0].getLsbD p.toNat || decide (p = s.lr[i].pri)) := by
  rw [activateSlot, aprRecord_bit]
  rfl

/-- The bits of APR[0] after an EOI of an active slot i (R202). -/
theorem endSlot_apr_bit (i : SlotIndex) (p : Priority) (h : s.lr[i].state.isActive = true) :
    (endSlot i s).apr[0].getLsbD p.toNat =
      (s.apr[0].getLsbD p.toNat && !(decide (p = s.lr[i].pri) &&
        !activeAt (s.setSlot i (endedSlot s.lr[i])) p)) := by
  have hr : releases s.lr[i] (endedSlot s.lr[i]) = true := by
    simp only [releases, h, Bool.true_and, Bool.or_eq_true, Bool.not_eq_true']
    left
    simp only [endedSlot]
    split <;> rfl
  simp only [endSlot]
  rw [aprRelease_bit, hr]
  simp only [Bool.true_and]
  split <;> rfl

@[simp] theorem activateSlot_lr (i : SlotIndex) :
    (activateSlot i s).lr = s.lr.set i { s.lr[i] with state := .active } := rfl

@[simp] theorem endSlot_lr (i : SlotIndex) : (endSlot i s).lr = s.lr.set i (endedSlot s.lr[i]) := by
  simp only [endSlot, aprRelease_lr]
  split <;> rfl

/-- The EOI flags after an EOI of slot i (R202). -/
theorem endSlot_eoif (i : SlotIndex) :
    (endSlot i s).eoif = if s.lr[i].hw then s.eoif.set i true else s.eoif := by
  simp only [endSlot, aprRelease_eoif]
  split <;> rfl

/-- The slot an EOI matches is implemented, active and holds the vid (R202). -/
theorem eoiMatch_some {vid : IntId} {i : SlotIndex} (h : eoiMatch vid s = some i) :
    i.val < s.cfg.nLr ∧ s.lr[i].state.isActive = true ∧ s.lr[i].vid = vid := by
  have := List.find?_some h
  simpa [impl_iff, and_assoc] using this

/-! ### The wrapping of a bus access -/

/-- A bus write hands a word to the register's write or does nothing; either way it answers with completion. -/
theorem answerWrite_cases (size : BitVec 4) (lane : BitVec 2) (data old : Word) (write : Word → State → State) :
    (∃ v, storedWord s.cfg.subwordMode size lane data old = some v ∧
      answerWrite size lane data old write s = (write v s).answer .writeDone) ∨
    (storedWord s.cfg.subwordMode size lane data old = none ∧
      answerWrite size lane data old write s = s.answer .writeDone) := by
  cases h : storedWord s.cfg.subwordMode size lane data old with
  | none => exact .inr ⟨rfl, by simp [answerWrite, h]⟩
  | some v => exact .inl ⟨v, rfl, by simp [answerWrite, h]⟩

/-- A write to a read-only or reserved register only answers with completion. -/
@[simp] theorem answerWrite_ignored (size : BitVec 4) (lane : BitVec 2) (data old : Word) :
    answerWrite size lane data old ignoredWrite s = s.answer .writeDone := by
  unfold answerWrite
  split <;> rfl

end Sys2Proof.Machine
end

