-- ==== Sys2Proof/Laws/Step.lean ====
section
/-!
SUPPORT. What a step does with its queue, and what a presented bus request becomes.
-/
namespace Sys2Proof.Machine

/-- A step with requests issued carries out the oldest. -/
theorem step_cons (s : State) (r : Request) (rest : List Request) (h : s.inbox = r :: rest) :
    step s = runRequest r (s.setInbox rest) := by
  simp [step, runNext, h]

/-- A descriptor-form request is carried out as it is. -/
theorem runRequest_described (desc : Descriptor) (data : Word) (s : State) :
    runRequest (.described desc data) s = runDescribed desc data s := rfl

/-- A described request whose descriptor decodes is carried out by its meaning. -/
theorem runDescribed_ok {desc : Descriptor} {data : Word} {i : Instr} (h : decode desc data = .ok i) (s : State) :
    runDescribed desc data s = exec i s := by
  simp [runDescribed, h]

/-- A described request whose descriptor is rejected is refused. -/
theorem runDescribed_error {desc : Descriptor} {data : Word} {why : DecodeError}
    (h : decode desc data = .error why) (s : State) :
    runDescribed desc data s = .refused (.reservedDescriptor desc why) := by
  simp [runDescribed, h]

/-- The offset of an address is its word offset and its lane (R63). -/
theorem descriptor_of_address (kind : BitVec 2) (size : BitVec 4) (addr : Addr) :
    (kind ++ size ++ offsetOf addr : Descriptor) =
      busDesc kind size (addr.extractLsb' 2 10) (addr.extractLsb' 0 2) := by
  apply BitVec.eq_of_getLsbD_eq
  intro k hk
  simp only [busDesc, offsetOf, BitVec.getLsbD_append, BitVec.getLsbD_extractLsb']
  by_cases h1 : k < 2
  · have h2 : k < 12 := by omega
    simp [h1, h2]
  · by_cases h2 : k - 2 < 10
    · have h3 : k < 12 := by omega
      have h4 : 2 + (k - 2) = k := by omega
      simp [h1, h2, h3, h4]
    · have h3 : ¬ k < 12 := by omega
      have h4 : k - 2 - 10 = k - 12 := by omega
      simp [h1, h2, h3, h4]

/-- A bus request in the window is presented as its descriptor; outside the window it gets the fault (R61). -/
theorem present_busRead (c : Config) (addr : Addr) (size : Nat) :
    present c (.busRead addr size) =
      if inWindow c addr then
        .ok (busDesc 0#2 (encodeSize size) (addr.extractLsb' 2 10) (addr.extractLsb' 0 2), 0#32)
      else .error (.invalidTarget addr) := by
  simp only [present, descriptor_of_address]

/-- The same of a bus write (R61). -/
theorem present_busWrite (c : Config) (addr : Addr) (size : Nat) (data : Word) :
    present c (.busWrite addr size data) =
      if inWindow c addr then
        .ok (busDesc 1#2 (encodeSize size) (addr.extractLsb' 2 10) (addr.extractLsb' 0 2), data)
      else .error (.invalidTarget addr) := by
  simp only [present, descriptor_of_address]

/-- An ACK with no eligible slot. -/
theorem execEvAck_none (s : State) (h : hppi s = none) :
    exec .evAck s = .next (s.answer (.ackId 1023#10)) := by
  simp [exec, execEvAck, h]

/-- An ACK with an eligible slot. -/
theorem execEvAck_some (s : State) {i : SlotIndex} (h : hppi s = some i) :
    exec .evAck s = .next ((activateSlot i s).answer (.ackId s.lr[i].vid)) := by
  simp [exec, execEvAck, h]

/-- An EOI that matches no slot. -/
theorem execEvEoi_none (s : State) (vid : IntId) (h : eoiMatch vid s = none) :
    exec (.evEoi vid) s = .next ((eoiNoMatch s).answer .eventDone) := by
  simp [exec, execEvEoi, h]

/-- An EOI that matches slot i. -/
theorem execEvEoi_some (s : State) (vid : IntId) {i : SlotIndex} (h : eoiMatch vid s = some i) :
    exec (.evEoi vid) s = .next ((endSlot i s).answer .eventDone) := by
  simp [exec, execEvEoi, h]

end Sys2Proof.Machine
end

