-- ==== Sys2Proof/Laws/Exec.lean ====
section
/-!
SUPPORT. What the execution of an instruction can do, said once: every next state is one of ten, and everything else
about execution is derived from these cases.
-/
namespace Sys2Proof.Machine

variable {i : Instr} {s t : State}

/-- A bus write's next state: its register's write of the word handed over, or nothing; then completion. -/
theorem answerWrite_eq {size : BitVec 4} {lane : BitVec 2} {data old : Word} {write : Word → State → State}
    (h : Host.Outcome.next (ρ := Refusal) (φ := Fault) (answerWrite size lane data old write s) = .next t) :
    (∃ v, storedWord s.cfg.subwordMode size lane data old = some v ∧ t = (write v s).answer .writeDone) ∨
    t = s.answer .writeDone := by
  cases h
  rcases answerWrite_cases s size lane data old write with ⟨v, h1, h2⟩ | ⟨-, h2⟩
  · exact .inl ⟨v, h1, h2⟩
  · exact .inr h2

/-- The next states of an executed instruction: only a result is returned; or a word is written to HCR, VMCR, an APR word
or a list register; or an ACK activates HPPI; or an EOI counts, or ends its slot; or a DEACT_DONE or SET_PWS sets its
flag. -/
theorem exec_next_cases (h : exec i s = .next t) :
    (∃ r, t = s.answer r) ∨
    (∃ size lane data v, i = .wrHcr size lane data ∧
      storedWord s.cfg.subwordMode size lane data (hcrWord s.hcr) = some v ∧
      t = (hcrWrite v s).answer .writeDone) ∨
    (∃ size lane data v, i = .wrVmcr size lane data ∧
      storedWord s.cfg.subwordMode size lane data (vmcrWord s.vmcr) = some v ∧
      t = (vmcrWrite v s).answer .writeDone) ∨
    (∃ size lane n data v, i = .wrApr size lane n data ∧
      storedWord s.cfg.subwordMode size lane data s.apr[n] = some v ∧
      t = (aprWrite n v s).answer .writeDone) ∨
    (∃ size lane n data v, i = .wrLr size lane n data ∧
      storedWord s.cfg.subwordMode size lane data (lrRead n s) = some v ∧
      t = (lrWrite n v s).answer .writeDone) ∨
    (∃ k, i = .evAck ∧ hppi s = some k ∧ t = (activateSlot k s).answer (.ackId s.lr[k].vid)) ∨
    (∃ vid, i = .evEoi vid ∧ eoiMatch vid s = none ∧ t = (eoiNoMatch s).answer .eventDone) ∨
    (∃ vid k, i = .evEoi vid ∧ eoiMatch vid s = some k ∧ t = (endSlot k s).answer .eventDone) ∨
    (∃ k, i = .evDeact k ∧ s.impl k = true ∧ t = (s.setEoif k false).answer .eventDone) ∨
    (∃ b, i = .evSetPws b ∧ t = (s.setPws b).answer .eventDone) := by
  have ignored : ∀ {size lane data old}, Host.Outcome.next (ρ := Refusal) (φ := Fault)
      (answerWrite size lane data old ignoredWrite s) = .next t → ∃ r, t = s.answer r := by
    intro size lane data old h
    rw [answerWrite_ignored] at h
    cases h
    exact ⟨_, rfl⟩
  cases i with
  | evAck =>
    cases hk : hppi s with
    | none =>
      rw [execEvAck_none s hk] at h
      cases h
      exact .inl ⟨_, rfl⟩
    | some k =>
      rw [execEvAck_some s hk] at h
      cases h
      simp
  | evEoi vid =>
    cases hk : eoiMatch vid s with
    | none =>
      rw [execEvEoi_none s vid hk] at h
      cases h
      simp [hk]
    | some k =>
      rw [execEvEoi_some s vid hk] at h
      cases h
      simp [hk]
  | evDeact k =>
    cases h
    cases hk : s.impl k with
    | false => exact .inl ⟨.eventDone, by simp⟩
    | true => simp [hk]
  | evSetPws b =>
    cases h
    simp
  | wrHcr size lane data =>
    rcases answerWrite_eq h with ⟨v, hv, ht⟩ | ht
    · simp [hv, ht]
    · exact .inl ⟨_, ht⟩
  | wrVmcr size lane data =>
    rcases answerWrite_eq h with ⟨v, hv, ht⟩ | ht
    · simp [hv, ht]
    · exact .inl ⟨_, ht⟩
  | wrApr size lane n data =>
    rcases answerWrite_eq h with ⟨v, hv, ht⟩ | ht
    · exact .inr (.inr (.inr (.inl ⟨size, lane, n, data, v, rfl, hv, ht⟩)))
    · exact .inl ⟨_, ht⟩
  | wrLr size lane n data =>
    rcases answerWrite_eq h with ⟨v, hv, ht⟩ | ht
    · exact .inr (.inr (.inr (.inr (.inl ⟨size, lane, n, data, v, rfl, hv, ht⟩))))
    · exact .inl ⟨_, ht⟩
  | wrVtr size lane data => exact .inl (ignored h)
  | wrMisr size lane data => exact .inl (ignored h)
  | wrEisr0 size lane data => exact .inl (ignored h)
  | wrEisr1 size lane data => exact .inl (ignored h)
  | wrElrsr0 size lane data => exact .inl (ignored h)
  | wrElrsr1 size lane data => exact .inl (ignored h)
  | wrRsvd size lane woff data => exact .inl (ignored h)
  | rdHcr size lane => cases h; exact .inl ⟨_, rfl⟩
  | rdVtr size lane => cases h; exact .inl ⟨_, rfl⟩
  | rdVmcr size lane => cases h; exact .inl ⟨_, rfl⟩
  | rdMisr size lane => cases h; exact .inl ⟨_, rfl⟩
  | rdEisr0 size lane => cases h; exact .inl ⟨_, rfl⟩
  | rdEisr1 size lane => cases h; exact .inl ⟨_, rfl⟩
  | rdElrsr0 size lane => cases h; exact .inl ⟨_, rfl⟩
  | rdElrsr1 size lane => cases h; exact .inl ⟨_, rfl⟩
  | rdApr size lane n => cases h; exact .inl ⟨_, rfl⟩
  | rdLr size lane n => cases h; exact .inl ⟨_, rfl⟩
  | rdRsvd size lane woff => cases h; exact .inl ⟨_, rfl⟩

/-- The next states of a step: the state itself with no request; the fault's report; or an executed instruction. -/
theorem step_next_cases (h : step s = .next t) :
    (s.inbox = [] ∧ t = s) ∨
    (∃ r rest addr, s.inbox = r :: rest ∧ present s.cfg r = .error (.invalidTarget addr) ∧
      t = raiseInvalidTarget addr (s.setInbox rest)) ∨
    (∃ r rest desc data i, s.inbox = r :: rest ∧ present s.cfg r = .ok (desc, data) ∧
      decode desc data = .ok i ∧ exec i (s.setInbox rest) = .next t) := by
  cases hb : s.inbox with
  | nil =>
    simp only [step, runNext, hb] at h
    cases h
    exact .inl ⟨rfl, rfl⟩
  | cons r rest =>
    rw [step_cons s r rest hb, runRequest] at h
    simp only [State.setInbox_cfg] at h
    cases hp : present s.cfg r with
    | error f =>
      cases f with
      | invalidTarget addr =>
        rw [hp] at h
        cases h
        exact .inr (.inl ⟨r, rest, addr, rfl, hp, rfl⟩)
    | ok pair =>
      rw [hp] at h
      cases hd : decode pair.1 pair.2 with
      | error why =>
        simp only [runDescribed, hd] at h
        cases h
      | ok i =>
        simp only [runDescribed, hd] at h
        exact .inr (.inr ⟨r, rest, pair.1, pair.2, i, rfl, hp, hd, h⟩)

end Sys2Proof.Machine
end

