-- ==== Sys2Proof/Laws/Flags.lean ====
section
/-!
SUPPORT. The bits of a status bitmap, and which state fields the status flags read.
-/
namespace Sys2Proof.Machine

/-- The bits of a bitmap collected over a list of slots. -/
theorem bitmap_foldl_getLsbD (f : SlotIndex → Bool) (l : List SlotIndex) (acc : Word) (k : Nat) :
    (l.foldl (fun acc i => acc ||| bitAt (f i) i.val) acc).getLsbD k =
      (acc.getLsbD k || l.any fun i => decide (k = i.val) && f i) := by
  induction l generalizing acc with
  | nil => simp
  | cons i l ih =>
    have hi : i.val < 32 := by omega
    simp only [List.foldl_cons, ih, BitVec.getLsbD_or, bitAt_getLsbD, List.any_cons]
    by_cases hk : k = i.val
    · simp [hk, hi, Bool.or_assoc]
    · simp [hk]

/-- Bit k of a bitmap is the bit of slot k; bits [31:16] are 0. -/
theorem bitmap_getLsbD (f : SlotIndex → Bool) (k : Nat) :
    (bitmap f).getLsbD k = if h : k < 16 then f ⟨k, h⟩ else false := by
  rw [bitmap, bitmap_foldl_getLsbD, Bool.eq_iff_iff]
  by_cases h : k < 16
  · simp only [h, dif_pos]
    simp only [BitVec.getLsbD_zero, Bool.false_or, List.any_eq_true, Bool.and_eq_true, decide_eq_true_eq]
    constructor
    · rintro ⟨i, -, hk, hf⟩
      have : (⟨k, h⟩ : SlotIndex) = i := Fin.ext hk
      rw [this]; exact hf
    · intro hf
      exact ⟨⟨k, h⟩, List.mem_finRange _, rfl, hf⟩
  · simp only [h, dif_neg, not_false_iff]
    simp only [BitVec.getLsbD_zero, Bool.false_or, List.any_eq_true, Bool.and_eq_true, decide_eq_true_eq]
    constructor
    · rintro ⟨i, -, hk, -⟩
      omega
    · simp

/-- Two bitmaps of the same bits are equal. -/
theorem bitmap_congr {f g : SlotIndex → Bool} (h : ∀ i, f i = g i) : bitmap f = bitmap g := by
  rw [funext h]

/-- Some implemented slot satisfies a test exactly when the search over the 16 slots finds one. -/
theorem any_slot_iff (f : SlotIndex → Bool) : (List.finRange 16).any f = true ↔ ∃ i, f i = true := by
  simp only [List.any_eq_true, List.mem_finRange, true_and]

end Sys2Proof.Machine
end

