-- ==== Sys2Proof/Laws/PerInstr.lean ====
section
/-!
SUPPORT. Per-instruction laws. `EncodedRow`: the descriptor a well-formed request encodes to matches the request's own row
of the opcode table.
-/
namespace Sys2Proof.Laws.EncodedRow

/-- A well-formed request's descriptor matches its row. -/
def Statement (i : Instr) : Prop :=
  i.wellFormed = true → (opcodeRow i).fits (encode i).1 = true

/-- A descriptor's masked fields decide the match. -/
theorem fits_of_fields (m : String) (kind k' : BitVec 2) (size : BitVec 4) (woff w' mw : BitVec 10) (lane : BitVec 2)
    (hk : kind &&& 3#2 = k') (hw : woff &&& mw = w') :
    (OpcodeRow.mk m (busDesc k' 0#4 w' 0#2) (busDesc 3#2 0#4 mw 0#2)).fits (busDesc kind size woff lane) = true := by
  subst hk hw
  simp only [OpcodeRow.fits, busDesc_and, beq_iff_eq, BitVec.and_zero]

theorem evAck : Statement (.evAck) :=
  fun _ => by decide

theorem evEoi (vid : IntId) : Statement (.evEoi vid) :=
  fun _ => (by decide : (opcodeRow (.evEoi 0)).fits 0x20001#18 = true)

theorem evDeact (index : SlotIndex) : Statement (.evDeact index) :=
  fun _ => (by decide : (opcodeRow (.evDeact 0)).fits 0x20002#18 = true)

theorem evSetPws (b : Bool) : Statement (.evSetPws b) :=
  fun _ => (by decide : (opcodeRow (.evSetPws false)).fits 0x20003#18 = true)

theorem rdHcr (size : BitVec 4) (lane : BitVec 2) : Statement (.rdHcr size lane) :=
  fun _ => fits_of_fields "RD_HCR" 0#2 0#2 size _ 0x000#10 0x3FF#10 lane rfl rfl

theorem wrHcr (size : BitVec 4) (lane : BitVec 2) (data : Word) : Statement (.wrHcr size lane data) :=
  fun _ => fits_of_fields "WR_HCR" 1#2 1#2 size _ 0x000#10 0x3FF#10 lane rfl rfl

theorem rdVtr (size : BitVec 4) (lane : BitVec 2) : Statement (.rdVtr size lane) :=
  fun _ => fits_of_fields "RD_VTR" 0#2 0#2 size _ 0x001#10 0x3FF#10 lane rfl rfl

theorem wrVtr (size : BitVec 4) (lane : BitVec 2) (data : Word) : Statement (.wrVtr size lane data) :=
  fun _ => fits_of_fields "WR_VTR" 1#2 1#2 size _ 0x001#10 0x3FF#10 lane rfl rfl

theorem rdVmcr (size : BitVec 4) (lane : BitVec 2) : Statement (.rdVmcr size lane) :=
  fun _ => fits_of_fields "RD_VMCR" 0#2 0#2 size _ 0x002#10 0x3FF#10 lane rfl rfl

theorem wrVmcr (size : BitVec 4) (lane : BitVec 2) (data : Word) : Statement (.wrVmcr size lane data) :=
  fun _ => fits_of_fields "WR_VMCR" 1#2 1#2 size _ 0x002#10 0x3FF#10 lane rfl rfl

theorem rdMisr (size : BitVec 4) (lane : BitVec 2) : Statement (.rdMisr size lane) :=
  fun _ => fits_of_fields "RD_MISR" 0#2 0#2 size _ 0x004#10 0x3FF#10 lane rfl rfl

theorem wrMisr (size : BitVec 4) (lane : BitVec 2) (data : Word) : Statement (.wrMisr size lane data) :=
  fun _ => fits_of_fields "WR_MISR" 1#2 1#2 size _ 0x004#10 0x3FF#10 lane rfl rfl

theorem rdEisr0 (size : BitVec 4) (lane : BitVec 2) : Statement (.rdEisr0 size lane) :=
  fun _ => fits_of_fields "RD_EISR0" 0#2 0#2 size _ 0x008#10 0x3FF#10 lane rfl rfl

theorem wrEisr0 (size : BitVec 4) (lane : BitVec 2) (data : Word) : Statement (.wrEisr0 size lane data) :=
  fun _ => fits_of_fields "WR_EISR0" 1#2 1#2 size _ 0x008#10 0x3FF#10 lane rfl rfl

theorem rdEisr1 (size : BitVec 4) (lane : BitVec 2) : Statement (.rdEisr1 size lane) :=
  fun _ => fits_of_fields "RD_EISR1" 0#2 0#2 size _ 0x009#10 0x3FF#10 lane rfl rfl

theorem wrEisr1 (size : BitVec 4) (lane : BitVec 2) (data : Word) : Statement (.wrEisr1 size lane data) :=
  fun _ => fits_of_fields "WR_EISR1" 1#2 1#2 size _ 0x009#10 0x3FF#10 lane rfl rfl

theorem rdElrsr0 (size : BitVec 4) (lane : BitVec 2) : Statement (.rdElrsr0 size lane) :=
  fun _ => fits_of_fields "RD_ELRSR0" 0#2 0#2 size _ 0x00C#10 0x3FF#10 lane rfl rfl

theorem wrElrsr0 (size : BitVec 4) (lane : BitVec 2) (data : Word) : Statement (.wrElrsr0 size lane data) :=
  fun _ => fits_of_fields "WR_ELRSR0" 1#2 1#2 size _ 0x00C#10 0x3FF#10 lane rfl rfl

theorem rdElrsr1 (size : BitVec 4) (lane : BitVec 2) : Statement (.rdElrsr1 size lane) :=
  fun _ => fits_of_fields "RD_ELRSR1" 0#2 0#2 size _ 0x00D#10 0x3FF#10 lane rfl rfl

theorem wrElrsr1 (size : BitVec 4) (lane : BitVec 2) (data : Word) : Statement (.wrElrsr1 size lane data) :=
  fun _ => fits_of_fields "WR_ELRSR1" 1#2 1#2 size _ 0x00D#10 0x3FF#10 lane rfl rfl

theorem rdApr (size : BitVec 4) (lane : BitVec 2) (n : AprIndex) : Statement (.rdApr size lane n) :=
  fun _ => fits_of_fields "RD_APR" 0#2 0#2 size _ 0x03C#10 0x3FC#10 lane rfl (by clear * -; revert n; decide)

theorem wrApr (size : BitVec 4) (lane : BitVec 2) (n : AprIndex) (data : Word) : Statement (.wrApr size lane n data) :=
  fun _ => fits_of_fields "WR_APR" 1#2 1#2 size _ 0x03C#10 0x3FC#10 lane rfl (by clear * -; revert n; decide)

theorem rdLr (size : BitVec 4) (lane : BitVec 2) (n : SlotIndex) : Statement (.rdLr size lane n) :=
  fun _ => fits_of_fields "RD_LR" 0#2 0#2 size _ 0x040#10 0x3F0#10 lane rfl (by clear * -; revert n; decide)

theorem wrLr (size : BitVec 4) (lane : BitVec 2) (n : SlotIndex) (data : Word) : Statement (.wrLr size lane n data) :=
  fun _ => fits_of_fields "WR_LR" 1#2 1#2 size _ 0x040#10 0x3F0#10 lane rfl (by clear * -; revert n; decide)

theorem rdRsvd (size : BitVec 4) (lane : BitVec 2) (woff : BitVec 10) : Statement (.rdRsvd size lane woff) :=
  fun _ => fits_of_fields "RD_RSVD" 0#2 0#2 size _ 0#10 0#10 lane rfl (by simp)

theorem wrRsvd (size : BitVec 4) (lane : BitVec 2) (woff : BitVec 10) (data : Word) : Statement (.wrRsvd size lane woff data) :=
  fun _ => fits_of_fields "WR_RSVD" 1#2 1#2 size _ 0#10 0#10 lane rfl (by simp)

end Sys2Proof.Laws.EncodedRow
end

