-- ==== Sys2Proof/Tests/Slice0.lean ====
section
/-!
SUPPORT. Tests: the well-formedness smoke, one decoding per constructor from a word written out by hand, single steps with
values from spec/95_test_vectors.md, and a witness for the hypotheses of every statement that has some.
-/
namespace Sys2Proof.Tests

set_option Elab.async false

open Sys2Proof Sys2Proof.Machine

/-! ### Helpers -/

/-- The state after a request, none when it stops. -/
def after (o : Host.Outcome State Fault Refusal) : Option State :=
  match o with
  | .next t => some t
  | .fault _ => none
  | .refused _ => none

/-- What a request returned. -/
def answerOf (o : Host.Outcome State Fault Refusal) : Option Result := (after o).bind (·.result)

/-- The reset state with slot n holding the slot a word encodes, and VENG0 = VENG1 = 1, VPMR = 0x1F (the prefix V of
spec/95). -/
def withLr (n : SlotIndex) (w : Word) : State :=
  (State.reset.setVmcr (vmcrOfWord 0xF8000003#32)).setSlot n (decodeLR w)

/-- The reset state with APR0 = v. -/
def withApr0 (v : Word) : State := State.reset.setApr 0 v

/-- A state in mode RAW_FORWARD. -/
def rawForward (s : State) : State := { s with cfg := { s.cfg with subwordMode := .rawForward } }

/-- The reset state with one presented request. -/
def issued (r : Request) : State := State.reset.setInbox [r]

/-! ### Well-formedness smoke: each ill-formed term is refused -/

/-- The word offsets of HCR, the last APR and the first and last list register are not reserved (R82). -/
theorem test_wellFormed_rdRsvd :
    (Instr.rdRsvd 4 0 0x000).wellFormed = false ∧ (Instr.rdRsvd 4 0 0x03F).wellFormed = false ∧
    (Instr.rdRsvd 4 0 0x040).wellFormed = false ∧ (Instr.rdRsvd 4 0 0x04F).wellFormed = false := by decide +kernel

/-- The word offsets of VTR, MISR, EISR1 and ELRSR1 are not reserved (R82). -/
theorem test_wellFormed_wrRsvd :
    (Instr.wrRsvd 4 0 0x001 0).wellFormed = false ∧ (Instr.wrRsvd 4 0 0x004 0).wellFormed = false ∧
    (Instr.wrRsvd 4 0 0x009 0).wellFormed = false ∧ (Instr.wrRsvd 4 0 0x00D 0).wellFormed = false := by decide +kernel

/-! ### Decoding: one word per constructor, written from R81 and R82 -/

/-- KIND 0b10, CODE in bits [3:0] (R81): `ack`, `eoi 5`, `deact 15`, `pws 1`. -/
theorem test_decode_events :
    decode 0b100000000000000000#18 0 = .ok .evAck ∧
    decode 0b100000000000000001#18 5 = .ok (.evEoi 5) ∧
    decode 0b100000000000000010#18 15 = .ok (.evDeact 15) ∧
    decode 0b100000000000000011#18 1 = .ok (.evSetPws true) := by decide +kernel

/-- `rd.4` of HCR, VTR, VMCR, MISR, EISR0, EISR1, ELRSR0, ELRSR1: desc = 0x04000 OR the offset (R82, R88). -/
theorem test_decode_reads :
    decode 0x04000#18 0 = .ok (.rdHcr 4 0) ∧ decode 0x04004#18 0 = .ok (.rdVtr 4 0) ∧
    decode 0x04008#18 0 = .ok (.rdVmcr 4 0) ∧ decode 0x04010#18 0 = .ok (.rdMisr 4 0) ∧
    decode 0x04020#18 0 = .ok (.rdEisr0 4 0) ∧ decode 0x04024#18 0 = .ok (.rdEisr1 4 0) ∧
    decode 0x04030#18 0 = .ok (.rdElrsr0 4 0) ∧ decode 0x04034#18 0 = .ok (.rdElrsr1 4 0) := by decide +kernel

/-- `rd.1 APR3+2`, `rd.2 LR15+1`, `rd.4 0x0EC`. -/
theorem test_decode_indexed_reads :
    decode 0b000001000011111110#18 0 = .ok (.rdApr 1 2 3) ∧
    decode 0b000010000100111101#18 0 = .ok (.rdLr 2 1 15) ∧
    decode 0b000100000011101100#18 0 = .ok (.rdRsvd 4 0 0x03B) := by decide +kernel

/-- `wr.4 X, 9` of the eight fixed registers: desc = 0x14000 OR the offset (R82, R88). -/
theorem test_decode_writes :
    decode 0x14000#18 9 = .ok (.wrHcr 4 0 9) ∧ decode 0x14004#18 9 = .ok (.wrVtr 4 0 9) ∧
    decode 0x14008#18 9 = .ok (.wrVmcr 4 0 9) ∧ decode 0x14010#18 9 = .ok (.wrMisr 4 0 9) ∧
    decode 0x14020#18 9 = .ok (.wrEisr0 4 0 9) ∧ decode 0x14024#18 9 = .ok (.wrEisr1 4 0 9) ∧
    decode 0x14030#18 9 = .ok (.wrElrsr0 4 0 9) ∧ decode 0x14034#18 9 = .ok (.wrElrsr1 4 0 9) := by decide +kernel

/-- `wr.8 APR0+3`, the `wr.4 LR5` of V-SRC-1, and `wr.4 0x800`. -/
theorem test_decode_indexed_writes :
    decode 0b011000000011110011#18 7 = .ok (.wrApr 8 3 0 7) ∧
    decode 0b010100000100010100#18 0x58000005#32 = .ok (.wrLr 4 0 5 0x58000005#32) ∧
    decode 0b010100100000000000#18 0x12345678#32 = .ok (.wrRsvd 4 0 0x200 0x12345678#32) := by decide +kernel

/-- The first and last rejected event code, a non-zero OFF[11:4] and KIND 0b11 (R86). -/
theorem test_decode_reserved :
    decode 0x20004#18 0 = .error .reservedEventCode ∧ decode 0x2000F#18 0 = .error .reservedEventCode ∧
    decode 0x20010#18 0 = .error .eventOffsetNotZero ∧ decode 0x30000#18 0 = .error .reservedKind := by decide +kernel

/-! ### One step on the host's words -/

/-- The word of `wr.4 LR0, 0x58000005` runs as the first request after reset, and its fields are stored. -/
theorem test_fetch_word :
    (after (step (State.reset.withFetchWord 56 0x58000005014100))).map (fun t => (encodeLR t.lr[0], t.inbox)) =
      some (0x58000005#32, []) := by decide +kernel

/-- A word with a bit set between the descriptor and the operand is no request. -/
theorem test_fetch_padding :
    decodeTableWord 24 0x804000 = none ∧ after (step (State.reset.withFetchWord 24 0x804000)) = none := by
  decide +kernel

/-! ### Single steps, values from spec/95_test_vectors.md -/

/-- V-ACK-1: at reset ACK returns 1023 and changes nothing else. -/
theorem test_ack_spurious : after (exec .evAck State.reset) =
    some { State.reset with result := some (.ackId 1023) } := by decide +kernel

/-- V-ACK-2: LR0 becomes Active, APR0 bit 16 is set, 5 is returned. -/
theorem test_ack : (after (exec .evAck (withLr 0 0x58000005#32))).map
    (fun t => (encodeLR t.lr[0], t.apr[0], t.result)) =
      some (0x68000005#32, 0x00010000#32, some (.ackId 5)) := by decide +kernel

/-- The third step of V-EOI-2: LR0 = 0x88009405, EISR0 = 1, MISR = 1, APR0 = 0. -/
theorem test_eoi_hw :
    (after (exec (.evEoi 5) ((withLr 0 0xA8009405#32).setApr 0 0x00010000#32))).map
      (fun t => (encodeLR t.lr[0], eisr0 t, misr t, t.apr[0])) =
      some (0x88009405#32, 1#32, 1#32, 0#32) := by decide +kernel

/-- V-EOI-6: EOICount goes from 30 to 31 and stays there. -/
theorem test_eoi_unmatched :
    (after (exec (.evEoi 9) (State.reset.setHcr (hcrOfWord 0xF0000000#32)))).map (fun t => hcrWord t.hcr) =
      some 0xF8000000#32 ∧
    (after (exec (.evEoi 9) (State.reset.setHcr (hcrOfWord 0xF8000000#32)))).map (fun t => hcrWord t.hcr) =
      some 0xF8000000#32 := by decide +kernel

/-- V-DEACT-1 and V-DEACT-2: index 4 of 4 slots has no effect, index 0 clears EISR0. -/
theorem test_deact :
    (after (exec (.evDeact 4) (State.reset.setEoif 0 true))).map eisr0 = some 1#32 ∧
    (after (exec (.evDeact 0) (State.reset.setEoif 0 true))).map eisr0 = some 0#32 := by decide +kernel

/-- V-MS-7: with HCR = 5, `pws 1` gives MISR = 4 and MAINT = 1. -/
theorem test_setPws : (after (exec (.evSetPws true) (State.reset.setHcr (hcrOfWord 5#32)))).map
    (fun t => (misr t, maint t)) = some (4#32, true) := by decide +kernel

/-- V-REG-1: HCR reads back 0xF80000FF after all ones are written. -/
theorem test_hcr : (after (exec (.wrHcr 4 0 0xFFFFFFFF#32) State.reset)).map
    (fun t => answerOf (exec (.rdHcr 4 0) t)) = some (some (.readData 0xF80000FF#32)) := by decide +kernel

/-- V-REG-5 and R104's example: VTR is constant, byte 3 reads 0x90. -/
theorem test_vtr : (after (exec (.wrVtr 4 0 0) State.reset)).map
    (fun t => (answerOf (exec (.rdVtr 4 0) t), answerOf (exec (.rdVtr 1 3) t))) =
      some (some (.readData 0x90000003#32), some (.readData 0x90#32)) := by decide +kernel

/-- V-REG-2: VMCR reads back 0xF8FC021F after all ones are written. -/
theorem test_vmcr : (after (exec (.wrVmcr 4 0 0xFFFFFFFF#32) State.reset)).map
    (fun t => answerOf (exec (.rdVmcr 4 0) t)) = some (some (.readData 0xF8FC021F#32)) := by decide +kernel

/-- P3, second row: `wr.1 VMCR+3, 0xF8` over VMCR = 3, in both modes. -/
theorem test_vmcr_subword :
    (after (exec (.wrVmcr 1 3 0xF8#32) (State.reset.setVmcr (vmcrOfWord 3#32)))).map (fun t => vmcrWord t.vmcr) =
      some 0xF8000003#32 ∧
    (after (exec (.wrVmcr 1 3 0xF8#32) (rawForward (State.reset.setVmcr (vmcrOfWord 3#32))))).map
      (fun t => vmcrWord t.vmcr) = some 0x18#32 := by decide +kernel

/-- V-REG-3: every enable, VENG0 = VENG1 = 1, no valid slot: MISR = 0x5A. A write of MISR is ignored. -/
theorem test_misr : (after (exec (.wrMisr 4 0 0xFF#32)
    ((State.reset.setHcr (hcrOfWord 0xFFFFFFFF#32)).setVmcr (vmcrOfWord 0xFFFFFFFF#32)))).map
      (fun t => answerOf (exec (.rdMisr 4 0) t)) = some (some (.readData 0x5A#32)) := by decide +kernel

/-- R111's example: a write of EISR0 does not clear it. EISR1 reads 0 (R112, V-REG-6). -/
theorem test_eisr :
    (after (exec (.wrEisr0 4 0 1#32) (State.reset.setEoif 0 true))).map
      (fun t => answerOf (exec (.rdEisr0 4 0) t)) = some (some (.readData 1#32)) ∧
    (after (exec (.wrEisr1 4 0 0xFFFFFFFF#32) (State.reset.setEoif 0 true))).map
      (fun t => answerOf (exec (.rdEisr1 4 0) t)) = some (some (.readData 0#32)) := by decide +kernel

/-- V-SRC-5, third row: ELRSR0 = 0xE with slot 0 Pending. Writes are ignored, ELRSR1 reads 0 (V-REG-6). -/
theorem test_elrsr :
    (after (exec (.wrElrsr0 4 0 0) (withLr 0 0x58000005#32))).map (fun t => answerOf (exec (.rdElrsr0 4 0) t)) =
      some (some (.readData 0xE#32)) ∧
    (after (exec (.wrElrsr1 4 0 1) (withLr 0 0x58000005#32))).map (fun t => answerOf (exec (.rdElrsr1 4 0) t)) =
      some (some (.readData 0#32)) := by decide +kernel

/-- V-MEM-2 to V-MEM-5: `rd.2 APR0+1`, `rd.2 APR0+3`, `rd.4 APR0+2`, `rd.8 APR0`. -/
theorem test_rdApr :
    answerOf (exec (.rdApr 2 1 0) (withApr0 0x11223344#32)) = some (.readData 0x2233#32) ∧
    answerOf (exec (.rdApr 2 3 0) (withApr0 0x11223344#32)) = some (.readData 0x11#32) ∧
    answerOf (exec (.rdApr 4 2 0) (withApr0 0x11223344#32)) = some (.readData 0x11223344#32) ∧
    answerOf (exec (.rdApr 8 0 0) (withApr0 0x11223344#32)) = some (.readData 0#32) := by decide +kernel

/-- V-MEM-6, V-MEM-7, V-MEM-8 and V-MEM-10. -/
theorem test_wrApr :
    (after (exec (.wrApr 1 1 0 0xAB#32) (withApr0 0x11223344#32))).map (·.apr[0]) = some 0x1122AB44#32 ∧
    (after (exec (.wrApr 2 3 0 0xBEEF#32) (withApr0 0x11223344#32))).map (·.apr[0]) = some 0xEF223344#32 ∧
    (after (exec (.wrApr 8 0 0 0xFFFFFFFF#32) (withApr0 0x11223344#32))).map (·.apr[0]) = some 0x11223344#32 ∧
    (after (exec (.wrApr 2 2 0 0xBEEF#32) (rawForward (withApr0 0x11223344#32)))).map (·.apr[0]) =
      some 0xBEEF#32 := by decide +kernel

/-- V-SRC-1: an unimplemented list register reads 0 and ignores a write; V-REG-8: slot 3 is the last implemented. -/
theorem test_rdLr :
    (after (exec (.wrLr 4 0 5 0x58000005#32) State.reset)).map (fun t => answerOf (exec (.rdLr 4 0 5) t)) =
      some (some (.readData 0#32)) ∧
    (after (exec (.wrLr 4 0 3 0x58000005#32) State.reset)).map (fun t => answerOf (exec (.rdLr 4 0 3) t)) =
      some (some (.readData 0x58000005#32)) := by decide +kernel

/-- V-LR-1 and the second write of V-LR-7: the slot, and APR0 after a priority change of an active slot. -/
theorem test_wrLr :
    (after (exec (.wrLr 4 0 1 0xF0F00401#32) State.reset)).map (fun t => (encodeLR t.lr[1], t.apr[0])) =
      some (0xF0800401#32, 2#32) ∧
    (after (exec (.wrLr 4 0 0 0x22800007#32) ((withLr 0 0x21800007#32).setApr 0 8#32))).map (·.apr[0]) =
      some 0x20#32 := by decide +kernel

/-- V-FLT-4 and R123's example. -/
theorem test_rsvd :
    answerOf (exec (.rdRsvd 4 0 0x03B) (withApr0 0xFFFFFFFF#32)) = some (.readData 0#32) ∧
    after (exec (.wrRsvd 4 0 0x200 0x12345678#32) State.reset) =
      some { State.reset with result := some .writeDone } := by decide +kernel

/-- V-PRI-2: a tie goes to the lower index; V-PRI-4: priority 0x1F is not below the mask 0x1F. -/
theorem test_hppi :
    hppi ((withLr 2 0x53800014#32).setSlot 3 (decodeLR 0x53800015#32)) = some 2 ∧
    hppi (withLr 0 0x5F800001#32) = none := by decide +kernel

/-- V-FLT-1 and V-FLT-3: one past the window faults, at width 8 too. -/
theorem test_outOfWindow :
    answerOf (step (issued (.busRead 0x2C020000#64 4))) = some (.fault (.invalidTarget 0x2C020000#64)) ∧
    answerOf (step (issued (.busRead 0x2C020000#64 8))) = some (.fault (.invalidTarget 0x2C020000#64)) := by
  decide +kernel

/-- V-MEM-13 and V-MEM-14: aliasing of window offsets. -/
theorem test_aliasing :
    (after (step (issued (.busWrite 0x2C0110F0#64 4 5)))).map (·.apr[0]) = some 5#32 ∧
    answerOf (step (issued (.busRead 0x2C01FFFC#64 4))) = some (.readData 0#32) := by decide +kernel

/-- The assembler text of R88. -/
theorem test_asmText :
    asmText (.wr 4 0x114 0x58000005#32) = "wr.4 0x114, 0x58000005" ∧ asmText (.eoi 99) = "eoi 99" := by
  decide +kernel

/-! ### Witnesses: concrete inputs that meet each statement's hypotheses -/

/-- The first and last word offset of R122's ranges. -/
theorem witness_DecodeInvertsEncode :
    (Instr.rdRsvd 15 3 0x003).wellFormed = true ∧ (Instr.wrRsvd 0 0 0x03B 1).wellFormed = true ∧
    (Instr.rdRsvd 4 0 0x050).wellFormed = true ∧ (Instr.wrRsvd 8 1 0x3FF 0).wellFormed = true ∧
    (Instr.wrLr 4 0 15 0xFFFFFFFF#32).wellFormed = true := by decide +kernel

/-- A read, a write, and the four events with every ignored bit set. -/
theorem witness_EncodeInvertsDecode :
    decode 0x04000#18 7 = .ok (.rdHcr 4 0) ∧ kindField 0x04000#18 = 0#2 ∧
    decode 0x1FFFF#18 7 = .ok (.wrRsvd 15 3 0x3FF 7) ∧ kindField 0x1FFFF#18 = 1#2 ∧
    decode 0x2F000#18 7 = .ok .evAck ∧ codeField 0x2F000#18 = 0#4 ∧
    decode 0x2F001#18 0xFFFFFFFF#32 = .ok (.evEoi 1023) ∧ codeField 0x2F001#18 = 1#4 ∧
    decode 0x2F002#18 0xFFFFFFFF#32 = .ok (.evDeact 15) ∧ codeField 0x2F002#18 = 2#4 ∧
    decode 0x2F003#18 0xFFFFFFFE#32 = .ok (.evSetPws false) ∧ codeField 0x2F003#18 = 3#4 ∧
    kindField 0x2F003#18 = 2#2 := by decide +kernel

/-- The last list register is no reserved word. -/
theorem witness_AssembledRequestsDecodeAsNamed : ∀ woff, (Reg.lr 15) ≠ .rsvd woff := by
  intro woff h
  cases h

/-- Slot 3 is the last of the four slots at reset. -/
theorem witness_PseudoRequestsWriteTheirSlot : (3 : SlotIndex).val < State.reset.cfg.nLr := by decide +kernel

/-- The last address of the window, and an event. -/
theorem witness_StepRunsTheDecodedRequest :
    present State.reset.cfg (.busRead 0x2C01FFFF#64 1) = .ok (0x01FFF#18, 0#32) ∧
    decode 0x01FFF#18 0 = .ok (.rdRsvd 1 3 0x3FF) ∧
    present State.reset.cfg (.described 0x20000#18 0) = .ok (0x20000#18, 0#32) ∧
    decode 0x20000#18 0 = .ok .evAck ∧ (issued (.described 0x20000#18 0)).inbox = [.described 0x20000#18 0] := by
  decide +kernel

/-- At reset no request is issued. -/
theorem witness_StepWithoutRequestChangesNothing : State.reset.inbox = [] := by decide +kernel

/-- A reserved descriptor of each kind is refused. -/
theorem witness_StepStopsOnlyAtReservedDescriptors :
    ReservedDescriptor 0x30000#18 ∧ ReservedDescriptor 0x20004#18 ∧ ReservedDescriptor 0x20010#18 ∧
    ¬ReservedDescriptor 0x20003#18 ∧ (issued (.described 0x20004#18 0)).inbox = [.described 0x20004#18 0] := by
  decide +kernel

/-- A read at the first address of the window. -/
theorem witness_StepOfBusReadAgreesWithAddressRules :
    (issued (.busRead 0x2C010000#64 4)).inbox = .busRead 0x2C010000#64 4 :: [] := by decide +kernel

/-- A write at the last address of the window. -/
theorem witness_StepOfBusWriteAgreesWithAddressRules :
    (issued (.busWrite 0x2C01FFFF#64 1 5)).inbox = .busWrite 0x2C01FFFF#64 1 5 :: [] := by decide +kernel

/-- The addresses just outside the window; the ones just inside are not (V-FLT-1, V-FLT-2). -/
theorem witness_OutOfWindowRequestIsReportedAndChangesNothing :
    (0x2C00FFFF#64).toNat < State.reset.cfg.base.toNat ∧
    State.reset.cfg.base.toNat + 0x10000 ≤ (0x2C020000#64).toNat ∧
    inWindow State.reset.cfg 0x2C010000#64 = true ∧ inWindow State.reset.cfg 0x2C01FFFF#64 = true ∧
    (issued (.busWrite 0x2C00FFFF#64 1 0xFF#32)).inbox = .busWrite 0x2C00FFFF#64 1 0xFF#32 :: [] := by decide +kernel

/-- V-MEM-13's two addresses. -/
theorem witness_OffsetsAliasModulo4KiB :
    inWindow State.reset.cfg 0x2C0110F0#64 = true ∧ inWindow State.reset.cfg 0x2C01F0F0#64 = true ∧
    (0x2C0110F0#64).toNat % 0x1000 = (0x2C01F0F0#64).toNat % 0x1000 := by decide +kernel

/-- A step with a request and a step without one have a next state. -/
theorem witness_StepKeepsConfigurationAndTakesOneRequest :
    (after (step State.reset)).isSome = true ∧ (after (step (issued (.described 0x20000#18 0)))).isSome = true := by
  decide +kernel

/-- The state of V-SRC-3's first write has zero unimplemented slots, and an ACK is to come. -/
theorem witness_StepKeepsUnimplementedSlotsZero :
    UnimplementedZero ((withLr 3 0x58000005#32).setInbox [.described 0x20000#18 0]) ∧
    (after (step ((withLr 3 0x58000005#32).setInbox [.described 0x20000#18 0]))).isSome = true := by decide +kernel

/-- Two slots active at priority 3 with APR0 = 8 (V-LR-4), and an EOI of one of them. -/
theorem witness_RequestsKeepAprExact :
    AprExact (((withLr 0 0x21800003#32).setSlot 1 (decodeLR 0x21800004#32)).setApr 0 8#32) ∧
    (after (exec (.evEoi 3) (((withLr 0 0x21800003#32).setSlot 1 (decodeLR 0x21800004#32)).setApr 0 8#32))).isSome =
      true ∧
    ∀ size lane data, Instr.evEoi 3 ≠ .wrApr size lane 0 data := by
  refine ⟨by decide +kernel, by decide +kernel, ?_⟩
  intro size lane data h
  cases h

/-- V-SRC-3: four active slots of four. -/
theorem witness_ActiveSlotsNeverExceedCapacity :
    UnimplementedZero ((((withLr 0 0x68000005#32).setSlot 1 (decodeLR 0x68000005#32)).setSlot 2
      (decodeLR 0x68000005#32)).setSlot 3 (decodeLR 0x68000005#32)) := by decide +kernel

/-- A size of each class of the statement, at lane 3. -/
theorem witness_ReadSlicesByWidthAndLane :
    sliceRead 4 3 0x11223344#32 = 0x11223344#32 ∧ sliceRead 1 3 0x11223344#32 = 0x11#32 ∧
    sliceRead 2 3 0x11223344#32 = 0x11#32 ∧ ((8#4 ≠ 1#4) ∧ (8#4 ≠ 2#4) ∧ (8#4 ≠ 4#4)) ∧
    sliceRead 8 3 0x11223344#32 = 0#32 := by decide +kernel

/-- A size of each class of the statement, at lane 3 and in each mode. -/
theorem witness_WritesStoreByWidthLaneAndMode :
    storedWord .merge 4 3 0xBEEF#32 0x11223344#32 = some 0xBEEF#32 ∧
    storedWord .merge 2 3 0xBEEF#32 0x11223344#32 = some 0xEF223344#32 ∧
    storedWord .rawForward 1 3 0xBEEF#32 0x11223344#32 = some 0xEF#32 ∧
    ((0#4 ≠ 1#4) ∧ (0#4 ≠ 2#4) ∧ (0#4 ≠ 4#4)) ∧ storedWord .merge 0 3 0xBEEF#32 0x11223344#32 = none := by decide +kernel

/-- A write of a read-only register is in the list. -/
theorem witness_ReadOnlyAndReservedWritesAreIgnored :
    Instr.wrRsvd 2 3 0x3FF 5 ∈ [Instr.wrVtr 2 3 5, .wrMisr 2 3 5, .wrEisr0 2 3 5, .wrEisr1 2 3 5,
      .wrElrsr0 2 3 5, .wrElrsr1 2 3 5, .wrRsvd 2 3 0x3FF 5] := by decide +kernel

/-- The last implemented slot, by a word and by a merged byte. -/
theorem witness_LrWriteReplacesSlotWithBookkeeping :
    (3 : SlotIndex).val < (withLr 3 0x68000005#32).cfg.nLr ∧
    storedWord (withLr 3 0x68000005#32).cfg.subwordMode 4 3 0x58000005#32
      (encodeLR (withLr 3 0x68000005#32).lr[3]) = some 0x58000005#32 ∧
    storedWord (withLr 3 0x68000005#32).cfg.subwordMode 1 3 0x58#32
      (encodeLR (withLr 3 0x68000005#32).lr[3]) = some 0x58000005#32 := by decide +kernel

/-- The first unimplemented slot, and a size without effect. -/
theorem witness_UnimplementedLrIsZeroAndIgnoresWrites :
    State.reset.cfg.nLr ≤ (4 : SlotIndex).val ∧ (3#4 ≠ 1#4 ∧ 3#4 ≠ 2#4 ∧ 3#4 ≠ 4#4) := by decide +kernel

/-- A write of a list register is in the list. -/
theorem witness_WritingTwiceIsWritingOnce :
    Instr.wrLr 1 2 3 0xFF#32 ∈ [Instr.wrHcr 1 2 0xFF#32, .wrVmcr 1 2 0xFF#32, .wrApr 1 2 0 0xFF#32,
      .wrLr 1 2 3 0xFF#32] := by decide +kernel

/-- A saved state and a state to restore it into, of the same configuration, that differ in every restored register;
slot 3 is the last implemented one and slot 4 the first that is not. -/
theorem witness_SavedRegistersRestore :
    let s := ((withLr 3 0xA8009405#32).setHcr (hcrOfWord 0x0800000B#32)).setApr 0 0x00010000#32
    let u := State.reset
    u.cfg = s.cfg ∧ u.hcr ≠ s.hcr ∧ u.vmcr ≠ s.vmcr ∧ u.apr[0] ≠ s.apr[0] ∧ u.lr[3] ≠ s.lr[3] ∧
    (3 : SlotIndex).val < s.cfg.nLr ∧ ¬(4 : SlotIndex).val < s.cfg.nLr := by decide +kernel

/-- V-LR-12's second write, on the last implemented slot. -/
theorem witness_InactiveOverInactiveChangesNoStatus :
    (3 : SlotIndex).val < (withLr 3 5#32).cfg.nLr ∧ (withLr 3 5#32).lr[3].state = .inactive ∧
    (0xCFFFFFFF#32 : Word).extractLsb' 28 2 = 0b00#2 := by decide +kernel

/-- V-ACK-4 and V-ACK-3: no eligible slot, and an ActiveAndPending one. -/
theorem witness_AckActivatesHppiAndReturnsItsVid :
    hppi (withLr 0 0x68000005#32) = none ∧ hppi (withLr 0 0x78000005#32) = some 0 := by decide +kernel

/-- An ACK that takes the last implemented slot. -/
theorem witness_AckKeepsEmptyListAndConsumesPending :
    (after (exec .evAck (withLr 3 0x58000005#32))).isSome = true ∧ hppi (withLr 3 0x58000005#32) = some 3 := by
  decide +kernel

/-- V-EOI-7: of slots 1 and 3, both Active with vid 5, slot 1 matches. -/
theorem witness_EoiEndsItsMatchedSlot :
    eoiMatch 5 ((withLr 1 0x68000005#32).setSlot 3 (decodeLR 0x68000005#32)) = some 1 ∧
    eoiMatch 5 (withLr 3 0xB8000005#32) = some 3 := by decide +kernel

/-- V-EOI-5: a Pending slot does not match; EOICount at 0, 30 and 31. -/
theorem witness_UnmatchedEoiCountsAndSaturates :
    eoiMatch 5 (withLr 0 0x58000005#32) = none ∧
    eoiMatch 9 (State.reset.setHcr (hcrOfWord 0xF0000000#32)) = none ∧
    eoiMatch 9 (State.reset.setHcr (hcrOfWord 0xF8000000#32)) = none := by decide +kernel

/-- V-EOI-2: an Active hardware-backed slot. -/
theorem witness_EoiStatusEffects :
    (after (exec (.evEoi 5) (withLr 3 0xA8009405#32))).isSome = true ∧
    eoiMatch 5 (withLr 3 0xA8009405#32) = some 3 ∧ (withLr 3 0xA8009405#32).lr[3].hw = true ∧
    (withLr 3 0xA8009405#32).lr[3].state = .active := by decide +kernel

/-- Each row of R143 on slot 3, the last implemented one: a write, an ACK from Pending and from ActiveAndPending, an EOI
of Active and of ActiveAndPending, and another request. -/
theorem witness_SlotsChangeOnlyAsTheFsmLists :
    let slot3 (i : Instr) (w : Word) : Option Word := (after (exec i (withLr 3 w))).map fun t => encodeLR t.lr[3]
    slot3 (.wrLr 4 0 3 0x52000002#32) 0x58000005#32 = some 0x52000002#32 ∧
    slot3 .evAck 0x58000005#32 = some 0x68000005#32 ∧ slot3 .evAck 0x78000005#32 = some 0x68000005#32 ∧
    slot3 (.evEoi 5) 0x68000005#32 = some 0x48000005#32 ∧
    slot3 (.evEoi 5) 0x78000005#32 = some 0x58000005#32 ∧
    slot3 (.evDeact 3) 0x58000005#32 = some 0x58000005#32 := by decide +kernel

/-- Each cause of R145 on slot 3: V-LR-11's and V-LR-10's writes, V-EOI-4's and V-EOI-3's EOI, V-DEACT-2's event, and an
ACK, which leaves the flag as it is. -/
theorem witness_EoiFlagsChangeOnlyByTheirCauses :
    let flag3 (i : Instr) (w : Word) (b : Bool) : Option Bool :=
      (after (exec i ((withLr 3 w).setEoif 3 b))).map (·.eoif[3])
    flag3 (.wrLr 4 0 3 0x98000005#32) 0x88000005#32 true = some false ∧
    flag3 (.wrLr 4 0 3 0#32) 0x88000005#32 true = some true ∧
    flag3 (.evEoi 5) 0xB8000005#32 false = some true ∧ flag3 (.evEoi 5) 0x78000005#32 false = some false ∧
    flag3 (.evDeact 3) 0x88000005#32 true = some false ∧ flag3 .evAck 0x98000005#32 true = some true := by
  decide +kernel

/-- An ACK with a next state; it is no write of VMCR. -/
theorem witness_VmcrChangesOnlyByItsBusWrite :
    (after (exec .evAck (withLr 0 0x58000005#32))).isSome = true ∧
    ∀ size lane data, Instr.evAck ≠ .wrVmcr size lane data := by
  refine ⟨by decide +kernel, ?_⟩
  intro size lane data h
  cases h

/-- A DEACT_DONE with a next state meets the premises of every clause. -/
theorem witness_AprHcrAndPwsChangeOnlyByTheirRequests :
    (after (exec (.evDeact 3) (State.reset.setEoif 3 true))).isSome = true ∧
    (∀ size lane n data, Instr.evDeact 3 ≠ .wrApr size lane n data) ∧
    (∀ size lane n data, Instr.evDeact 3 ≠ .wrLr size lane n data) ∧ Instr.evDeact 3 ≠ .evAck ∧
    (∀ vid, Instr.evDeact 3 ≠ .evEoi vid) ∧ (∀ size lane data, Instr.evDeact 3 ≠ .wrHcr size lane data) ∧
    ∀ b, Instr.evDeact 3 ≠ .evSetPws b := by
  refine ⟨by decide +kernel, ?_, ?_, ?_, ?_, ?_, ?_⟩ <;> intros <;> intro h <;> cases h

/-- An event with a next state; slot 4 is the first unimplemented one. -/
theorem witness_EventsLeaveControlStateAlone :
    (requestKind (.evEoi 5)).isEvent = true ∧ (after (exec (.evEoi 5) State.reset)).isSome = true ∧
    State.reset.cfg.nLr ≤ (4 : SlotIndex).val := by decide +kernel

/-- The reset state meets both invariants. -/
theorem test_reset_invariants : UnimplementedZero State.reset ∧ AprExact State.reset := by decide +kernel

end Sys2Proof.Tests
end

section
/-!
The block's window and its step (R6, R8, R61, R62): BASE, the window and the offset of an address as naturals, and what a
presented request makes of a step. They settle O9, O10 and O15.
-/
namespace Sys2Proof.Machine

/-! ### The window as naturals (R8, R61, R62) -/

/-- BASE is 0x10000 times the configured page (R8). -/
theorem base_toNat (c : Config) : c.base.toNat = c.basePage.toNat * 0x10000 := by
  have happend : c.base.toNat = c.basePage.toNat <<< 16 ||| 0 := BitVec.toNat_append c.basePage 0#16
  rw [happend, Nat.or_zero, Nat.shiftLeft_eq]

/-- An address is in the window exactly when it lies in [BASE, BASE + 0x10000) (R61). -/
theorem inWindow_iff (c : Config) (addr : Addr) :
    inWindow c addr = true ↔ c.base.toNat ≤ addr.toNat ∧ addr.toNat < c.base.toNat + 0x10000 := by
  simp [inWindow]

/-- The offset is the address modulo 4 KiB (R62). -/
@[simp] theorem offsetOf_toNat (addr : Addr) : (offsetOf addr).toNat = addr.toNat % 0x1000 := by
  simp [offsetOf]

/-- Addresses congruent modulo 4 KiB have one offset (R62). -/
theorem offsetOf_congr {a b : Addr} (h : a.toNat % 0x1000 = b.toNat % 0x1000) : offsetOf a = offsetOf b :=
  BitVec.eq_of_toNat_eq (by simpa using h)

/-- BASE being a multiple of 4 KiB, an in-window address's offset is its distance from BASE modulo 4 KiB (R8, R62). -/
theorem offsetOf_eq_distance (c : Config) (addr : Addr) (hin : inWindow c addr = true) :
    (offsetOf addr).toNat = (addr.toNat - c.base.toNat) % 0x1000 := by
  obtain ⟨hlow, -⟩ := (inWindow_iff c addr).mp hin
  have hbase := base_toNat c
  rw [offsetOf_toNat]
  omega

/-! ### What a request is presented as decides the step (R6, R80) -/

/-- With no request issued a step leaves the state as it is. -/
theorem step_nil (s : State) (h : s.inbox = []) : step s = .next s := by
  simp [step, runNext, h]

/-- A request presented as a descriptor and operand is carried out as that described request. -/
theorem runRequest_of_present {s : State} {r : Request} {desc : Descriptor} {data : Word}
    (h : present s.cfg r = .ok (desc, data)) : runRequest r s = runDescribed desc data s := by
  simp [runRequest, h]

/-- Two requests presented alike give the same step. -/
theorem step_congr_of_present {s : State} {r r' : Request} (rest : List Request)
    (h : present s.cfg r = present s.cfg r') :
    step (s.setInbox (r :: rest)) = step (s.setInbox (r' :: rest)) := by
  simp [step_cons (s.setInbox _) _ rest (State.setInbox_inbox s _), runRequest, h]

section Alias
variable {c : Config} {a b : Addr}

/-- Bus reads of in-window addresses congruent modulo 4 KiB are presented alike (R62). -/
theorem present_busRead_congr (ha : inWindow c a = true) (hb : inWindow c b = true)
    (hab : a.toNat % 0x1000 = b.toNat % 0x1000) (size : Nat) :
    present c (.busRead a size) = present c (.busRead b size) := by
  simp [present, ha, hb, offsetOf_congr hab]

/-- Bus writes of in-window addresses congruent modulo 4 KiB are presented alike (R62). -/
theorem present_busWrite_congr (ha : inWindow c a = true) (hb : inWindow c b = true)
    (hab : a.toNat % 0x1000 = b.toNat % 0x1000) (size : Nat) (data : Word) :
    present c (.busWrite a size data) = present c (.busWrite b size data) := by
  simp [present, ha, hb, offsetOf_congr hab]

end Alias

/-! ### The obligations -/

/-- Settles O15: BASE is a multiple of the window's size, and the two requests are presented as one descriptor. -/
theorem offsetsAliasModulo4KiB : Obligations.OffsetsAliasModulo4KiB := by
  refine ⟨fun c => ?_, offsetOf_eq_distance, fun s a b size data rest ha hb hab => ⟨?_, ?_⟩⟩
  · rw [base_toNat, Nat.mul_mod_left]
  · exact step_congr_of_present rest (present_busRead_congr ha hb hab size)
  · exact step_congr_of_present rest (present_busWrite_congr ha hb hab size data)

/-- Settles O9: the step takes the oldest request, which is carried out as its descriptor, which decodes. -/
theorem stepRunsTheDecodedRequest : Obligations.StepRunsTheDecodedRequest := by
  intro s r rest desc data i hinbox hpresent hdecode
  calc step s = runRequest r (s.setInbox rest) := step_cons s r rest hinbox
    _ = runDescribed desc data (s.setInbox rest) := runRequest_of_present hpresent
    _ = exec i (s.setInbox rest) := runDescribed_ok hdecode _

/-- Settles O10: an empty queue is the step's first case. -/
theorem stepWithoutRequestChangesNothing : Obligations.StepWithoutRequestChangesNothing :=
  step_nil

end Sys2Proof.Machine
end

section
/-!
Register words as fields placed at their positions (R24, R25, R29, R31, R32, R39): reading a placed field back, and
placing a field that was read. They settle O35, O36 and O37.
-/
namespace Sys2Proof.Machine

/-! ### A field of a word, placed and read -/

section Fields
variable {w : Nat} (x : BitVec w) {n a l : Nat} (b : Bool) (v : Word)

/-- The bits of a field placed at bit n. -/
theorem placed_getLsbD (k : Nat) :
    (x.setWidth 32 <<< n).getLsbD k = (decide (k < 32) && decide (n ≤ k) && x.getLsbD (k - n)) := by
  rw [BitVec.getLsbD_shiftLeft, BitVec.getLsbD_setWidth]
  by_cases hk : k < n
  · simp [hk, Nat.not_le.mpr hk]
  · by_cases h32 : k < 32
    · have hsub : k - n < 32 := by omega
      simp [hk, h32, hsub, Nat.not_lt.mp hk]
    · simp [h32]

/-- A placed field is read back at its own position. -/
theorem extractLsb'_placed_self (h : n + w ≤ 32) : (x.setWidth 32 <<< n).extractLsb' n w = x := by
  apply BitVec.eq_of_getLsbD_eq
  intro k hk
  have h32 : n + k < 32 := by omega
  rw [BitVec.getLsbD_extractLsb', placed_getLsbD]
  simp [hk, h32]

/-- A placed field leaves every other position 0. -/
theorem extractLsb'_placed_disjoint (h : a + l ≤ n ∨ n + w ≤ a) :
    (x.setWidth 32 <<< n).extractLsb' a l = 0#l := by
  apply BitVec.eq_of_getLsbD_eq
  intro k hk
  rw [BitVec.getLsbD_extractLsb', placed_getLsbD, BitVec.getLsbD_zero]
  rcases h with hlow | hhigh
  · have hle : ¬ n ≤ a + k := by omega
    simp [hle]
  · have hzero : x.getLsbD (a + k - n) = false := BitVec.getLsbD_of_ge _ _ (by omega)
    simp [hzero]

/-- A placed field leaves every bit outside its position 0. -/
theorem placed_getLsbD_disjoint {k : Nat} (h : k < n ∨ n + w ≤ k) : (x.setWidth 32 <<< n).getLsbD k = false := by
  rw [placed_getLsbD]
  rcases h with hlow | hhigh
  · simp [Nat.not_le.mpr hlow]
  · simp [BitVec.getLsbD_of_ge x (k - n) (by omega)]

/-- A placed bit is read back at its own position. -/
theorem bitAt_getLsbD_self (h : n < 32) : (bitAt b n).getLsbD n = b := by
  rw [bitAt_getLsbD]
  simp [h]

/-- A placed bit leaves every other bit 0. -/
theorem bitAt_getLsbD_ne {k : Nat} (h : k ≠ n) : (bitAt b n).getLsbD k = false := by
  rw [bitAt_getLsbD]
  simp [h]

/-- A placed bit leaves every other field 0. -/
theorem extractLsb'_bitAt_disjoint (h : a + l ≤ n ∨ n + 1 ≤ a) : (bitAt b n).extractLsb' a l = 0#l :=
  extractLsb'_placed_disjoint (BitVec.ofBool b) h

/-- Placing the field a word holds masks the word. -/
theorem placed_extractLsb' (w n : Nat) :
    (v.extractLsb' n w).setWidth 32 <<< n = v &&& (BitVec.allOnes w).setWidth 32 <<< n := by
  apply BitVec.eq_of_getLsbD_eq
  intro k hk
  rw [BitVec.getLsbD_and, placed_getLsbD, placed_getLsbD, BitVec.getLsbD_extractLsb', BitVec.getLsbD_allOnes]
  by_cases hnk : n ≤ k
  · have hadd : n + (k - n) = k := by omega
    simp [hk, hnk, hadd, Bool.and_comm]
  · simp [hnk]

/-- Placing the bit a word holds masks the word. -/
theorem bitAt_getLsbD_eq_and (n : Nat) : bitAt (v.getLsbD n) n = v &&& bitAt true n := by
  apply BitVec.eq_of_getLsbD_eq
  intro k hk
  rw [BitVec.getLsbD_and, bitAt_getLsbD, bitAt_getLsbD]
  by_cases hkn : k = n
  · subst hkn
    simp [hk]
  · simp [hkn]

end Fields

/-! ### HCR, VTR and VMCR (R29, R31, R32, R39) -/

/-- The layout of HCR (R29, R102). -/
theorem hcrWord_layout (h : Hcr) :
    (hcrWord h).getLsbD 0 = h.en ∧ (hcrWord h).getLsbD 1 = h.uie ∧ (hcrWord h).getLsbD 2 = h.lrenpie ∧
    (hcrWord h).getLsbD 3 = h.npie ∧ (hcrWord h).getLsbD 4 = h.vgrp0eie ∧ (hcrWord h).getLsbD 5 = h.vgrp0die ∧
    (hcrWord h).getLsbD 6 = h.vgrp1eie ∧ (hcrWord h).getLsbD 7 = h.vgrp1die ∧
    (hcrWord h).extractLsb' 8 19 = 0#19 ∧ (hcrWord h).extractLsb' 27 5 = h.eoiCount := by
  refine ⟨?_, ?_, ?_, ?_, ?_, ?_, ?_, ?_, ?_, ?_⟩
  case refine_9 | refine_10 =>
    simp (disch := omega) only [hcrWord, BitVec.extractLsb'_or, extractLsb'_placed_self, extractLsb'_placed_disjoint,
      extractLsb'_bitAt_disjoint, BitVec.or_zero]
  all_goals
    simp (disch := omega) only [hcrWord, BitVec.getLsbD_or, placed_getLsbD_disjoint, bitAt_getLsbD_self,
      bitAt_getLsbD_ne, Bool.or_false, Bool.false_or]

/-- The layout of VTR (R31, R104). -/
theorem vtrWord_layout (c : Config) :
    ((vtrWord c).extractLsb' 0 6).toNat = c.nLr - 1 ∧ (vtrWord c).extractLsb' 6 20 = 0#20 ∧
    (vtrWord c).extractLsb' 26 3 = 4#3 ∧ (vtrWord c).extractLsb' 29 3 = 4#3 := by
  have layout : ∀ r : Fin 16, let word : Word := 0x90000000#32 ||| BitVec.ofNat 32 r.val
      (word.extractLsb' 0 6).toNat = r.val ∧ word.extractLsb' 6 20 = 0#20 ∧
      word.extractLsb' 26 3 = 4#3 ∧ word.extractLsb' 29 3 = 4#3 := by decide
  exact layout c.listRegs

/-- The layout of VMCR (R32, R106). -/
theorem vmcrWord_layout (m : Vmcr) :
    (vmcrWord m).getLsbD 0 = m.veng0 ∧ (vmcrWord m).getLsbD 1 = m.veng1 ∧ (vmcrWord m).getLsbD 2 = m.vAckCtl ∧
    (vmcrWord m).getLsbD 3 = m.vFiqEn ∧ (vmcrWord m).getLsbD 4 = m.vCbpr ∧
    (vmcrWord m).extractLsb' 5 4 = 0#4 ∧ (vmcrWord m).getLsbD 9 = m.vEoim ∧
    (vmcrWord m).extractLsb' 10 8 = 0#8 ∧ (vmcrWord m).extractLsb' 18 3 = m.vbpr1 ∧
    (vmcrWord m).extractLsb' 21 3 = m.vbpr0 ∧ (vmcrWord m).extractLsb' 24 3 = 0#3 ∧
    (vmcrWord m).extractLsb' 27 5 = m.vpmr := by
  refine ⟨?_, ?_, ?_, ?_, ?_, ?_, ?_, ?_, ?_, ?_, ?_, ?_⟩
  case refine_1 | refine_2 | refine_3 | refine_4 | refine_5 | refine_7 =>
    simp (disch := omega) only [vmcrWord, BitVec.getLsbD_or, placed_getLsbD_disjoint, bitAt_getLsbD_self,
      bitAt_getLsbD_ne, Bool.or_false, Bool.false_or]
  all_goals
    simp (disch := omega) only [vmcrWord, BitVec.extractLsb'_or, extractLsb'_placed_self, extractLsb'_placed_disjoint,
      extractLsb'_bitAt_disjoint, BitVec.or_zero, BitVec.zero_or]

/-- Settles O35: every field of a control register is read back where it was placed. -/
theorem controlRegisterWordLayouts : Obligations.ControlRegisterWordLayouts :=
  fun h c m => ⟨hcrWord_layout h, vtrWord_layout c, vmcrWord_layout m⟩

/-! ### The list registers (R24, R25) -/

/-- `EncodeLR` with the lowest field placed at bit 0, like the others. -/
theorem encodeLR_eq (x : Slot) :
    encodeLR x = bitAt x.hw 31 ||| bitAt x.grp.code 30 ||| x.state.code.setWidth 32 <<< 28 |||
      x.pri.setWidth 32 <<< 23 ||| x.pid.setWidth 32 <<< 10 ||| x.vid.setWidth 32 <<< 0 := by
  rw [BitVec.shiftLeft_zero]
  rfl

/-- The layout of a list register (R25, R140). -/
theorem encodeLR_layout (x : Slot) :
    (encodeLR x).extractLsb' 0 10 = x.vid ∧ (encodeLR x).extractLsb' 10 10 = x.pid ∧
    (encodeLR x).extractLsb' 20 3 = 0#3 ∧ (encodeLR x).extractLsb' 23 5 = x.pri ∧
    (encodeLR x).extractLsb' 28 2 = x.state.code ∧ (encodeLR x).getLsbD 30 = x.grp.code ∧
    (encodeLR x).getLsbD 31 = x.hw := by
  refine ⟨?_, ?_, ?_, ?_, ?_, ?_, ?_⟩
  case refine_6 | refine_7 =>
    simp (disch := omega) only [encodeLR_eq, BitVec.getLsbD_or, placed_getLsbD_disjoint, bitAt_getLsbD_self,
      bitAt_getLsbD_ne, Bool.or_false, Bool.false_or]
  all_goals
    simp (disch := omega) only [encodeLR_eq, BitVec.extractLsb'_or, extractLsb'_placed_self,
      extractLsb'_placed_disjoint, extractLsb'_bitAt_disjoint, BitVec.or_zero, BitVec.zero_or]

/-- The group bit is 1 for Group1 (R23). -/
theorem Group.code_iff (g : Group) : g.code = true ↔ g = .group1 := by cases g <;> decide

/-- Settles O36: the layout, with the state's code and the group's bit written out. -/
theorem listRegisterWordLayout : Obligations.ListRegisterWordLayout := by
  intro x
  obtain ⟨hvid, hpid, hzero, hpri, hstate, hgrp, hhw⟩ := encodeLR_layout x
  refine ⟨hvid, hpid, hzero, hpri, ?_, ?_, hhw⟩
  · rw [hstate]
    cases x.state <;> rfl
  · rw [hgrp, Group.code_iff]

/-! ### Round trips (R39, R102, R106, R150) -/

/-- Reading HCR and decoding the word gives the stored fields. -/
theorem hcrOfWord_hcrWord (h : Hcr) : hcrOfWord (hcrWord h) = h := by
  obtain ⟨h0, h1, h2, h3, h4, h5, h6, h7, -, hcount⟩ := hcrWord_layout h
  simp only [hcrOfWord, h0, h1, h2, h3, h4, h5, h6, h7, hcount]

/-- A word written to HCR reads back with its reserved bits 0: each field masks its own bits. -/
theorem hcrWord_hcrOfWord (v : Word) : hcrWord (hcrOfWord v) = v &&& 0xF80000FF#32 := by
  simp only [hcrWord, hcrOfWord, placed_extractLsb', bitAt_getLsbD_eq_and, ← BitVec.and_or_distrib_left]
  rfl

/-- Reading VMCR and decoding the word gives the stored fields. -/
theorem vmcrOfWord_vmcrWord (m : Vmcr) : vmcrOfWord (vmcrWord m) = m := by
  obtain ⟨h0, h1, h2, h3, h4, -, h9, -, hbpr1, hbpr0, -, hpmr⟩ := vmcrWord_layout m
  simp only [vmcrOfWord, h0, h1, h2, h3, h4, h9, hbpr1, hbpr0, hpmr]

/-- A word written to VMCR reads back with its reserved bits 0: each field masks its own bits. -/
theorem vmcrWord_vmcrOfWord (v : Word) : vmcrWord (vmcrOfWord v) = v &&& 0xF8FC021F#32 := by
  simp only [vmcrWord, vmcrOfWord, placed_extractLsb', bitAt_getLsbD_eq_and, ← BitVec.and_or_distrib_left]
  rfl

/-- Encoding a slot and decoding the word gives the slot. -/
theorem decodeLR_encodeLR (x : Slot) : decodeLR (encodeLR x) = x := by
  obtain ⟨hvid, hpid, -, hpri, hstate, hgrp, hhw⟩ := encodeLR_layout x
  simp only [decodeLR, hvid, hpid, hpri, hstate, hgrp, hhw, SlotState.ofCode_code, Group.ofCode_code]

/-- A word written to a list register reads back with bits [22:20] 0: each field masks its own bits. -/
theorem encodeLR_decodeLR (v : Word) : encodeLR (decodeLR v) = v &&& 0xFF8FFFFF#32 := by
  simp only [encodeLR_eq, decodeLR, SlotState.code_ofCode, Group.code_ofCode, placed_extractLsb',
    bitAt_getLsbD_eq_and, ← BitVec.and_or_distrib_left]
  rfl

/-- Settles O37: the two round trips of each codec. -/
theorem registerCodecsRoundTrip : Obligations.RegisterCodecsRoundTrip :=
  fun v h m x => ⟨hcrWord_hcrOfWord v, hcrOfWord_hcrWord h, vmcrWord_vmcrOfWord v, vmcrOfWord_vmcrWord m,
    encodeLR_decodeLR v, decodeLR_encodeLR x⟩

end Sys2Proof.Machine
end

section
/-!
What the execution of an instruction changes and leaves alone, derived from the one case analysis of Laws/Exec.lean: the
unimplemented slots (R22, R41, R151) and the control fields (R28-R34). They settle O17, O19, O20, O28, O56 and O57.
-/
namespace Sys2Proof.Machine

variable {i : Instr} {s t : State}

/-! ### The principle: a property each operation establishes -/

/-- A property of states that holds before an instruction, that each operation the instruction can carry out establishes
and that returning a result keeps, holds of its next state. -/
theorem exec_ensures (P : State → Prop) (h : exec i s = .next t) (same : P s)
    (answer : ∀ r u, P u → P (State.answer u r))
    (wrHcr : ∀ size lane data v, i = .wrHcr size lane data → P (hcrWrite v s))
    (wrVmcr : ∀ size lane data v, i = .wrVmcr size lane data → P (vmcrWrite v s))
    (wrApr : ∀ size lane n data v, i = .wrApr size lane n data → P (aprWrite n v s))
    (wrLr : ∀ size lane n data v, i = .wrLr size lane n data → P (lrWrite n v s))
    (ack : ∀ k, i = .evAck → hppi s = some k → P (activateSlot k s))
    (eoiUnmatched : ∀ vid, i = .evEoi vid → P (eoiNoMatch s))
    (eoiMatched : ∀ vid k, i = .evEoi vid → eoiMatch vid s = some k → P (endSlot k s))
    (deact : ∀ k, i = .evDeact k → s.impl k = true → P (s.setEoif k false))
    (setPws : ∀ b, i = .evSetPws b → P (s.setPws b)) : P t := by
  rcases exec_next_cases h with ⟨r, rfl⟩ | ⟨size, lane, data, v, hi, -, rfl⟩ | ⟨size, lane, data, v, hi, -, rfl⟩ |
    ⟨size, lane, n, data, v, hi, -, rfl⟩ | ⟨size, lane, n, data, v, hi, -, rfl⟩ | ⟨k, hi, hk, rfl⟩ |
    ⟨vid, hi, -, rfl⟩ | ⟨vid, k, hi, hk, rfl⟩ | ⟨k, hi, hk, rfl⟩ | ⟨b, hi, rfl⟩
  · exact answer _ _ same
  · exact answer _ _ (wrHcr _ _ _ v hi)
  · exact answer _ _ (wrVmcr _ _ _ v hi)
  · exact answer _ _ (wrApr _ _ _ _ v hi)
  · exact answer _ _ (wrLr _ _ _ _ v hi)
  · exact answer _ _ (ack k hi hk)
  · exact answer _ _ (eoiUnmatched vid hi)
  · exact answer _ _ (eoiMatched vid k hi hk)
  · exact answer _ _ (deact k hi hk)
  · exact answer _ _ (setPws b hi)

/-! ### The unimplemented slots (R22, R41, R151) -/

/-- The configuration is the same, and so is every unimplemented slot and its EOI flag. -/
def FixesUnimplemented (s t : State) : Prop :=
  t.cfg = s.cfg ∧ ∀ j : SlotIndex, s.cfg.nLr ≤ j.val → t.lr[j] = s.lr[j] ∧ t.eoif[j] = s.eoif[j]

/-- States that agree in configuration, slots and EOI flags agree in the unimplemented ones. -/
theorem fixesUnimplemented_of_eq (hcfg : t.cfg = s.cfg) (hlr : t.lr = s.lr) (heoif : t.eoif = s.eoif) :
    FixesUnimplemented s t :=
  ⟨hcfg, fun j _ => by simp [hlr, heoif]⟩

/-- A change of one implemented slot and its EOI flag fixes the unimplemented ones: their indices differ. -/
theorem fixesUnimplemented_of_set {k : SlotIndex} {x : Slot} {b : Bool} (hk : k.val < s.cfg.nLr)
    (hcfg : t.cfg = s.cfg) (hlr : t.lr = s.lr ∨ t.lr = s.lr.set k x)
    (heoif : t.eoif = s.eoif ∨ t.eoif = s.eoif.set k b) : FixesUnimplemented s t := by
  refine ⟨hcfg, fun j hj => ?_⟩
  have hne : k.val ≠ j.val := by omega
  constructor
  · rcases hlr with h | h <;> simp [h, hne]
  · rcases heoif with h | h <;> simp [h, hne]

/-- A list-register write fixes the unimplemented slots: it is ignored at one of them (R142, R151). -/
theorem lrWrite_fixesUnimplemented (n : SlotIndex) (v : Word) : FixesUnimplemented s (lrWrite n v s) := by
  cases hn : s.impl n with
  | false =>
    rw [lrWrite_unimplemented s n v hn]
    exact fixesUnimplemented_of_eq rfl rfl rfl
  | true =>
    refine fixesUnimplemented_of_set (k := n) (x := decodeLR v) (b := false) ((impl_iff s n).1 hn)
      (lrWrite_cfg s n v) ?_ ?_ <;> rw [lrWrite_implemented s n v hn]
    · exact .inr (replaceSlot_lr ..)
    · rw [replaceSlot_eoif]
      exact ite_eq_or_eq ..

/-- An EOI's change of its matched slot fixes the unimplemented slots (R202). -/
theorem endSlot_fixesUnimplemented {k : SlotIndex} (hk : k.val < s.cfg.nLr) : FixesUnimplemented s (endSlot k s) := by
  refine fixesUnimplemented_of_set (b := true) hk (endSlot_cfg s k) (.inr (endSlot_lr s k)) ?_
  rw [endSlot_eoif]
  exact (ite_eq_or_eq ..).symm

/-- Every instruction fixes the unimplemented slots. -/
theorem exec_fixesUnimplemented (h : exec i s = .next t) : FixesUnimplemented s t := by
  have of_eq := @fixesUnimplemented_of_eq s
  refine exec_ensures (FixesUnimplemented s) h (same := of_eq rfl rfl rfl) (answer := fun _ _ hu => hu)
    (wrHcr := fun _ _ _ _ _ => of_eq rfl rfl rfl) (wrVmcr := fun _ _ _ _ _ => of_eq rfl rfl rfl)
    (wrApr := fun _ _ _ _ _ _ => of_eq rfl rfl rfl) (wrLr := fun _ _ n _ v _ => lrWrite_fixesUnimplemented n v)
    (ack := fun k _ hk => ?_) (eoiUnmatched := fun _ _ => of_eq rfl rfl rfl)
    (eoiMatched := fun _ _ _ hk => endSlot_fixesUnimplemented (eoiMatch_some s hk).1)
    (deact := fun k _ hk => ?_) (setPws := fun _ _ => of_eq rfl rfl rfl)
  · have himpl := ((eligible_iff s k).1 (hppi_eligible s hk)).1
    exact fixesUnimplemented_of_set (b := false) himpl rfl (.inr (activateSlot_lr s k)) (.inl rfl)
  · exact fixesUnimplemented_of_set (x := Slot.zero) ((impl_iff s k).1 hk) rfl (.inl rfl) (.inr rfl)

/-- Every step fixes the unimplemented slots. -/
theorem step_fixesUnimplemented (h : step s = .next t) : FixesUnimplemented s t := by
  rcases step_next_cases h with ⟨-, rfl⟩ | ⟨r, rest, addr, -, -, rfl⟩ | ⟨r, rest, desc, data, i, -, -, -, hexec⟩
  · exact fixesUnimplemented_of_eq rfl rfl rfl
  · exact fixesUnimplemented_of_eq rfl rfl rfl
  · have hfix : FixesUnimplemented (s.setInbox rest) t := exec_fixesUnimplemented hexec
    exact hfix

/-- The invariant R41.1 survives what fixes the unimplemented slots. -/
theorem FixesUnimplemented.unimplementedZero (h : FixesUnimplemented s t) (hs : UnimplementedZero s) :
    UnimplementedZero t := by
  obtain ⟨hcfg, hfix⟩ := h
  intro j hj
  rw [hcfg] at hj
  rw [(hfix j hj).1, (hfix j hj).2]
  exact hs j hj

/-- Settles O17: a step leaves the unimplemented slots as they are. -/
theorem stepKeepsUnimplementedSlotsZero : Obligations.StepKeepsUnimplementedSlotsZero :=
  fun _ _ hs hstep => (step_fixesUnimplemented hstep).unimplementedZero hs

/-- N_LR of the 16 indices are implemented. -/
theorem countP_implemented (c : Config) :
    ((List.finRange 16).countP fun i : SlotIndex => decide (i.val < c.nLr)) = c.nLr := by
  have hcount : ∀ r : Fin 16, ((List.finRange 16).countP fun i => decide (i.val < r.val + 1)) = r.val + 1 := by decide
  exact hcount c.listRegs

/-- Where the unimplemented slots are all-zero, an active slot is implemented (R41). -/
theorem lt_nLr_of_isActive (hs : UnimplementedZero s) {j : SlotIndex}
    (hj : s.lr[j].state.isActive = true) : j.val < s.cfg.nLr := by
  by_contra hge
  rw [(hs j (by omega)).1] at hj
  cases hj

/-- Settles O20: every active slot is an implemented one, and N_LR slots are implemented. -/
theorem activeSlotsNeverExceedCapacity : Obligations.ActiveSlotsNeverExceedCapacity := by
  intro s hs
  calc (List.finRange 16).countP (fun j : SlotIndex => s.lr[j].state.isActive)
      ≤ (List.finRange 16).countP fun j : SlotIndex => decide (j.val < s.cfg.nLr) :=
        List.countP_mono_left fun j _ hj => decide_eq_true (lt_nLr_of_isActive hs hj)
    _ = s.cfg.nLr := countP_implemented s.cfg

/-! ### The state at creation (R241) -/

theorem created_lr_get (c : Config) (j : SlotIndex) : (State.created c).lr[j] = Slot.zero := by simp

theorem created_eoif_get (c : Config) (j : SlotIndex) : (State.created c).eoif[j] = false := by simp

theorem created_apr_get (c : Config) (n : AprIndex) : (State.created c).apr[n] = 0#32 := by simp

/-- At creation no slot is active and APR[0] is 0, so it records the active priorities. -/
theorem created_aprExact (c : Config) : AprExact (State.created c) := by
  intro p
  have hapr : (State.created c).apr[0] = 0#32 := created_apr_get c 0
  rw [hapr, BitVec.getLsbD_zero]
  constructor
  · intro hbit
    cases hbit
  · rintro ⟨j, -, hactive, -⟩
    rw [created_lr_get] at hactive
    cases hactive

/-- Settles O19: every slot is all-zero at creation, and no priority is active. -/
theorem createdStateMeetsInvariants : Obligations.CreatedStateMeetsInvariants :=
  fun c => ⟨fun j _ => ⟨created_lr_get c j, created_eoif_get c j⟩, created_aprExact c⟩

/-! ### The control fields (R28-R34) -/

/-- A list-register write changes no active-priority word but APR[0]. -/
theorem lrWrite_apr_get (k : SlotIndex) (v : Word) (n : AprIndex) (hn : n ≠ 0) :
    (lrWrite k v s).apr[n] = s.apr[n] := by
  cases hk : s.impl k with
  | false => rw [lrWrite_unimplemented s k v hk]
  | true => rw [lrWrite_implemented s k v hk, replaceSlot_apr_get _ _ _ _ n hn]

/-- A write of one active-priority word changes no other. -/
theorem aprWrite_apr_get_of_ne {n k : AprIndex} (v : Word) (hne : k ≠ n) : (aprWrite n v s).apr[k] = s.apr[k] := by
  rw [aprWrite, setApr_apr_get, if_neg hne]

/-- The counter never falls (R203). -/
theorem le_saturatingSucc (n : BitVec 5) : n.toNat ≤ (saturatingSucc n).toNat := by
  have hn := n.isLt
  rw [saturatingSucc_toNat]
  omega

/-- Only a bus write of VMCR changes VMCR. -/
theorem exec_vmcr (h : exec i s = .next t) (hi : ∀ size lane data, i ≠ .wrVmcr size lane data) :
    t.vmcr = s.vmcr :=
  exec_ensures (·.vmcr = s.vmcr) h (same := rfl) (answer := fun _ _ hu => hu)
    (wrHcr := fun _ _ _ _ _ => rfl) (wrVmcr := fun _ _ _ _ hw => absurd hw (hi _ _ _))
    (wrApr := fun _ _ _ _ _ _ => rfl) (wrLr := fun _ _ n _ v _ => lrWrite_vmcr s n v)
    (ack := fun _ _ _ => rfl) (eoiUnmatched := fun _ _ => rfl) (eoiMatched := fun _ k _ _ => endSlot_vmcr s k)
    (deact := fun _ _ _ => rfl) (setPws := fun _ _ => rfl)

/-- Only a SET_PWS changes the pending-without-slot latch. -/
theorem exec_pws (h : exec i s = .next t) (hi : ∀ b, i ≠ .evSetPws b) : t.pws = s.pws :=
  exec_ensures (·.pws = s.pws) h (same := rfl) (answer := fun _ _ hu => hu)
    (wrHcr := fun _ _ _ _ _ => rfl) (wrVmcr := fun _ _ _ _ _ => rfl)
    (wrApr := fun _ _ _ _ _ _ => rfl) (wrLr := fun _ _ n _ v _ => lrWrite_pws s n v)
    (ack := fun _ _ _ => rfl) (eoiUnmatched := fun _ _ => rfl) (eoiMatched := fun _ k _ _ => endSlot_pws s k)
    (deact := fun _ _ _ => rfl) (setPws := fun b hw => absurd hw (hi b))

/-- Only its own bus write changes an active-priority word other than APR[0]. -/
theorem exec_apr_get (h : exec i s = .next t) (n : AprIndex) (hn : n ≠ 0)
    (hi : ∀ size lane data, i ≠ .wrApr size lane n data) : t.apr[n] = s.apr[n] := by
  refine exec_ensures (·.apr[n] = s.apr[n]) h (same := rfl) (answer := fun _ _ hu => hu)
    (wrHcr := fun _ _ _ _ _ => rfl) (wrVmcr := fun _ _ _ _ _ => rfl)
    (wrApr := fun size lane k data v hw => aprWrite_apr_get_of_ne v ?_)
    (wrLr := fun _ _ k _ v _ => lrWrite_apr_get k v n hn)
    (ack := fun k _ _ => activateSlot_apr_get s k n hn) (eoiUnmatched := fun _ _ => rfl)
    (eoiMatched := fun _ k _ _ => endSlot_apr_get s k n hn)
    (deact := fun _ _ _ => rfl) (setPws := fun _ _ => rfl)
  rintro rfl
  exact hi _ _ _ hw

/-- Only a bus write of APR0, a write of a list register, an ACK or an EOI changes APR[0]. -/
theorem exec_apr_zero (h : exec i s = .next t) (hapr : ∀ size lane data, i ≠ .wrApr size lane 0 data)
    (hlr : ∀ size lane n data, i ≠ .wrLr size lane n data) (hack : i ≠ .evAck) (heoi : ∀ vid, i ≠ .evEoi vid) :
    t.apr[0] = s.apr[0] := by
  refine exec_ensures (·.apr[0] = s.apr[0]) h (same := rfl) (answer := fun _ _ hu => hu)
    (wrHcr := fun _ _ _ _ _ => rfl) (wrVmcr := fun _ _ _ _ _ => rfl)
    (wrApr := fun size lane k data v hw => aprWrite_apr_get_of_ne (k := 0) v ?_)
    (wrLr := fun _ _ _ _ _ hw => absurd hw (hlr _ _ _ _))
    (ack := fun _ hw _ => absurd hw hack) (eoiUnmatched := fun _ _ => rfl)
    (eoiMatched := fun vid _ hw _ => absurd hw (heoi vid))
    (deact := fun _ _ _ => rfl) (setPws := fun _ _ => rfl)
  rintro rfl
  exact hapr _ _ _ hw

/-- Only its bus write or an EOI changes HCR. -/
theorem exec_hcr (h : exec i s = .next t) (hi : ∀ size lane data, i ≠ .wrHcr size lane data)
    (heoi : ∀ vid, i ≠ .evEoi vid) : t.hcr = s.hcr :=
  exec_ensures (·.hcr = s.hcr) h (same := rfl) (answer := fun _ _ hu => hu)
    (wrHcr := fun _ _ _ _ hw => absurd hw (hi _ _ _)) (wrVmcr := fun _ _ _ _ _ => rfl)
    (wrApr := fun _ _ _ _ _ _ => rfl) (wrLr := fun _ _ n _ v _ => lrWrite_hcr s n v)
    (ack := fun _ _ _ => rfl) (eoiUnmatched := fun vid hw => absurd hw (heoi vid))
    (eoiMatched := fun vid _ hw _ => absurd hw (heoi vid)) (deact := fun _ _ _ => rfl) (setPws := fun _ _ => rfl)

/-- HCR differs in EOICount alone, which did not fall. -/
def HcrOnlyCountsUp (old new : Hcr) : Prop :=
  { new with eoiCount := old.eoiCount } = old ∧ old.eoiCount.toNat ≤ new.eoiCount.toNat

theorem hcrOnlyCountsUp_of_eq {old new : Hcr} (h : new = old) : HcrOnlyCountsUp old new := by
  subst h
  exact ⟨rfl, le_rfl⟩

/-- No instruction but its bus write changes HCR beyond counting EOIs: only an unmatched EOI does even that (R203). -/
theorem exec_hcrOnlyCountsUp (h : exec i s = .next t) (hi : ∀ size lane data, i ≠ .wrHcr size lane data) :
    HcrOnlyCountsUp s.hcr t.hcr := by
  have of_eq := @hcrOnlyCountsUp_of_eq s.hcr
  exact exec_ensures (fun u => HcrOnlyCountsUp s.hcr u.hcr) h (same := of_eq rfl) (answer := fun _ _ hu => hu)
    (wrHcr := fun _ _ _ _ hw => absurd hw (hi _ _ _)) (wrVmcr := fun _ _ _ _ _ => of_eq rfl)
    (wrApr := fun _ _ _ _ _ _ => of_eq rfl) (wrLr := fun _ _ n _ v _ => of_eq (lrWrite_hcr s n v))
    (ack := fun _ _ _ => of_eq rfl) (eoiUnmatched := fun _ _ => ⟨rfl, le_saturatingSucc _⟩)
    (eoiMatched := fun _ k _ _ => of_eq (endSlot_hcr s k)) (deact := fun _ _ _ => of_eq rfl)
    (setPws := fun _ _ => of_eq rfl)

/-- Settles O56: of the operations an instruction can carry out, `VmcrWrite` alone sets VMCR. -/
theorem vmcrChangesOnlyByItsBusWrite : Obligations.VmcrChangesOnlyByItsBusWrite :=
  fun _ _ _ h hi => exec_vmcr h hi

/-- Settles O57: the frame of each field, operation by operation. -/
theorem aprHcrAndPwsChangeOnlyByTheirRequests : Obligations.AprHcrAndPwsChangeOnlyByTheirRequests := by
  intro i s t h
  refine ⟨exec_apr_get h, exec_apr_zero h, fun hi => ?_, exec_pws h⟩
  obtain ⟨hfields, hcount⟩ := exec_hcrOnlyCountsUp h hi
  exact ⟨hfields, hcount, exec_hcr h hi⟩

/-- Settles O28: the bus write hands `HcrWrite` a word, or hands over nothing. -/
theorem hcrWriteStoresItsFields : Obligations.HcrWriteStoresItsFields := by
  intro size lane data s
  have hexec : exec (.wrHcr size lane data) s = .next (answerWrite size lane data (hcrWord s.hcr) hcrWrite s) := rfl
  rcases answerWrite_cases s size lane data (hcrWord s.hcr) hcrWrite with ⟨v, hword, hwrite⟩ | ⟨hword, hwrite⟩
  · rw [hexec, hwrite, hword]
    rfl
  · rw [hexec, hwrite, hword]
    rfl

end Sys2Proof.Machine
end

section
/-!
What the maintenance status and HPPI read of the state (R170-R194): not the APR words, not HCR.En or EOICount, and of VMCR
the group enables and VPMR alone. They settle O43.
-/
namespace Sys2Proof.Machine

/-- The two states agree in everything a status flag or HPPI reads: HCR but for En and EOICount, and of VMCR the group
enables and VPMR. -/
structure SameStatusInputs (s u : State) : Prop where
  cfg : u.cfg = s.cfg
  lr : u.lr = s.lr
  eoif : u.eoif = s.eoif
  pws : u.pws = s.pws
  uie : u.hcr.uie = s.hcr.uie
  lrenpie : u.hcr.lrenpie = s.hcr.lrenpie
  npie : u.hcr.npie = s.hcr.npie
  vgrp0eie : u.hcr.vgrp0eie = s.hcr.vgrp0eie
  vgrp0die : u.hcr.vgrp0die = s.hcr.vgrp0die
  vgrp1eie : u.hcr.vgrp1eie = s.hcr.vgrp1eie
  vgrp1die : u.hcr.vgrp1die = s.hcr.vgrp1die
  veng0 : u.vmcr.veng0 = s.vmcr.veng0
  veng1 : u.vmcr.veng1 = s.vmcr.veng1
  vpmr : u.vmcr.vpmr = s.vmcr.vpmr

namespace SameStatusInputs
variable {s u : State} (h : SameStatusInputs s u)
include h

theorem eisr0_eq : eisr0 u = eisr0 s := by
  refine bitmap_congr fun i => ?_
  simp only [eisrBit, State.impl, h.cfg, h.eoif]

theorem elrsr0_eq : elrsr0 u = elrsr0 s := by
  refine bitmap_congr fun i => ?_
  simp only [elrsrBit, State.impl, h.cfg, h.lr]

theorem npBit_eq : npBit u = npBit s := by
  simp only [npBit, State.impl, h.npie, h.cfg, h.lr]

theorem validCount_eq : validCount u = validCount s := by
  simp only [validCount, State.impl, h.cfg, h.lr]

theorem uBit_eq : uBit u = uBit s := by
  simp only [uBit, h.validCount_eq, h.uie, h.cfg]

theorem lrenpBit_eq : lrenpBit u = lrenpBit s := by
  simp only [lrenpBit, h.lrenpie, h.pws]

theorem groupBits_eq : vgrp0eBit u = vgrp0eBit s ∧ vgrp0dBit u = vgrp0dBit s ∧
    vgrp1eBit u = vgrp1eBit s ∧ vgrp1dBit u = vgrp1dBit s := by
  simp only [vgrp0eBit, vgrp0dBit, vgrp1eBit, vgrp1dBit, h.vgrp0eie, h.vgrp0die, h.vgrp1eie, h.vgrp1die,
    h.veng0, h.veng1, and_self]

/-- MISR is a function of the status inputs (R178). -/
theorem misr_eq : misr u = misr s := by
  obtain ⟨h0e, h0d, h1e, h1d⟩ := h.groupBits_eq
  simp only [misr, eoiBit, h0e, h0d, h1e, h1d, h.npBit_eq, h.uBit_eq, h.lrenpBit_eq, h.eisr0_eq]

/-- The line is a function of the status inputs and HCR.En (R180). -/
theorem maint_eq (hen : u.hcr.en = s.hcr.en) : maint u = maint s := by
  simp only [maint, hen, h.misr_eq]

theorem groupEnabled_eq (g : Group) : groupEnabled u.vmcr g = groupEnabled s.vmcr g := by
  cases g with
  | group0 => exact h.veng0
  | group1 => exact h.veng1

theorem eligible_eq (i : SlotIndex) : eligible u i = eligible s i := by
  simp only [eligible, State.impl, h.groupEnabled_eq, h.cfg, h.lr, h.vpmr]

/-- HPPI is a function of the status inputs (R191). -/
theorem hppi_eq : hppi u = hppi s := by
  have hbetter : betterSlot u = betterSlot s := by
    funext best i
    simp only [betterSlot, h.eligible_eq, h.lr]
  rw [hppi, hppi, hbetter]

end SameStatusInputs

/-- Settles O43: the APR words, HCR.En and the VMCR fields without effect are no status inputs. -/
theorem ungatedStatusIgnoresAprEnAndBinaryPoint : Obligations.UngatedStatusIgnoresAprEnAndBinaryPoint := by
  intro s words b ackCtl fiqEn cbpr eoim bpr0 bpr1 a e m
  have ha : SameStatusInputs s a := by constructor <;> rfl
  have he : SameStatusInputs s e := by constructor <;> rfl
  have hm : SameStatusInputs s m := by constructor <;> rfl
  exact ⟨⟨ha.misr_eq, ha.eisr0_eq, ha.elrsr0_eq, ha.maint_eq rfl, ha.hppi_eq⟩,
    ⟨he.misr_eq, he.eisr0_eq, he.elrsr0_eq, he.hppi_eq⟩,
    ⟨hm.misr_eq, hm.eisr0_eq, hm.elrsr0_eq, hm.maint_eq rfl, hm.hppi_eq⟩⟩

end Sys2Proof.Machine
end

section
/-!
The bytes a bus access carries (R64-R72): the width mask, and the slice of a read and the merge of a write, bit by bit.
They settle O26 and O27.
-/
namespace Sys2Proof.Machine

/-- The mask of a 1- or 2-byte access, bit by bit (R66, R67). -/
theorem widthMask_getLsbD {size : BitVec 4} (h : size = 1#4 ∨ size = 2#4) (k : Nat) :
    (widthMask size).getLsbD k = decide (k < 8 * size.toNat) := by
  rcases h with rfl | rfl
  · exact widthMask_one_getLsbD k
  · exact widthMask_two_getLsbD k

/-- A 1- or 2-byte read takes the bytes from the lane on, zero-extended (R66, R67). -/
theorem sliceRead_getLsbD {size : BitVec 4} (h : size = 1#4 ∨ size = 2#4) (lane : BitVec 2) (w : Word) (k : Nat) :
    (sliceRead size lane w).getLsbD k = (decide (k < 8 * size.toNat) && w.getLsbD (8 * lane.toNat + k)) := by
  have hne : size ≠ 4#4 := by rcases h with rfl | rfl <;> decide
  rw [sliceRead, if_neg hne, if_pos h, BitVec.getLsbD_and, BitVec.getLsbD_ushiftRight, widthMask_getLsbD h,
    Bool.and_comm]

/-- A merged word holds the carried bytes from the lane on and the old word's bits elsewhere (R70). -/
theorem mergeBytes_getLsbD {size : BitVec 4} (h : size = 1#4 ∨ size = 2#4) (lane : BitVec 2) (data old : Word)
    {k : Nat} (hk : k < 32) :
    (mergeBytes size lane data old).getLsbD k =
      if 8 * lane.toNat ≤ k ∧ k < 8 * lane.toNat + 8 * size.toNat then data.getLsbD (k - 8 * lane.toNat)
      else old.getLsbD k := by
  simp only [mergeBytes, carriedData, BitVec.getLsbD_or, BitVec.getLsbD_and, BitVec.getLsbD_not,
    BitVec.getLsbD_shiftLeft, widthMask_getLsbD h, hk]
  by_cases hlow : k < 8 * lane.toNat
  · have hout : ¬ 8 * lane.toNat ≤ k := by omega
    simp [hlow, hout]
  · by_cases hin : k - 8 * lane.toNat < 8 * size.toNat
    · have hrange : 8 * lane.toNat ≤ k ∧ k < 8 * lane.toNat + 8 * size.toNat := by omega
      simp [hlow, hin, hrange]
    · have hout : ¬ k < 8 * lane.toNat + 8 * size.toNat := by omega
      simp [hlow, hin, hout]

/-- Raw forwarding hands over the carried bytes alone, unshifted (R71). -/
theorem carriedData_getLsbD {size : BitVec 4} (h : size = 1#4 ∨ size = 2#4) (data : Word) (k : Nat) :
    (carriedData size data).getLsbD k = (decide (k < 8 * size.toNat) && data.getLsbD k) := by
  rw [carriedData, BitVec.getLsbD_and, widthMask_getLsbD h, Bool.and_comm]

/-- Merging the same bytes over what is left of a merged word changes none of the bits left (R70, R75). -/
theorem mergeBytes_mergeBytes_and {size : BitVec 4} (h : size = 1#4 ∨ size = 2#4) (lane : BitVec 2)
    (data old m : Word) :
    mergeBytes size lane data (mergeBytes size lane data old &&& m) &&& m = mergeBytes size lane data old &&& m := by
  apply BitVec.eq_of_getLsbD_eq
  intro k hk
  simp only [BitVec.getLsbD_and, mergeBytes_getLsbD h lane data _ hk]
  split
  · rfl
  · rw [Bool.and_assoc, Bool.and_self]

/-- A read of any size but 1, 2 and 4 returns 0 (R68). -/
theorem sliceRead_other {size : BitVec 4} (h1 : size ≠ 1#4) (h2 : size ≠ 2#4) (h4 : size ≠ 4#4) (lane : BitVec 2)
    (w : Word) : sliceRead size lane w = 0#32 := by
  rw [sliceRead, if_neg h4, if_neg (not_or.2 ⟨h1, h2⟩)]

section Stored
variable {mode : SubwordWriteMode} {size : BitVec 4} (lane : BitVec 2) (data old : Word)

/-- In mode MERGE a 1- or 2-byte write hands over the merged word (R70). -/
theorem storedWord_merge (h : size = 1#4 ∨ size = 2#4) :
    storedWord .merge size lane data old = some (mergeBytes size lane data old) := by
  have hne : size ≠ 4#4 := by rcases h with rfl | rfl <;> decide
  simp only [storedWord, if_neg hne, if_pos h]

/-- In mode RAW_FORWARD a 1- or 2-byte write hands over the carried bytes (R71). -/
theorem storedWord_rawForward (h : size = 1#4 ∨ size = 2#4) :
    storedWord .rawForward size lane data old = some (carriedData size data) := by
  have hne : size ≠ 4#4 := by rcases h with rfl | rfl <;> decide
  simp only [storedWord, if_neg hne, if_pos h]

/-- A write of any size but 1, 2 and 4 hands over nothing (R72). -/
theorem storedWord_other (h1 : size ≠ 1#4) (h2 : size ≠ 2#4) (h4 : size ≠ 4#4) :
    storedWord mode size lane data old = none := by
  simp only [storedWord, if_neg h4, if_neg (not_or.2 ⟨h1, h2⟩)]

end Stored

/-- Settles O26: the four size classes of `sliceRead`. -/
theorem readSlicesByWidthAndLane : Obligations.ReadSlicesByWidthAndLane := by
  intro size lane w k
  refine ⟨?word, ?byte, ?half, fun h1 h2 h4 => sliceRead_other h1 h2 h4 lane w⟩
  case word =>
    rintro rfl
    rfl
  case byte =>
    rintro rfl
    exact sliceRead_getLsbD (.inl rfl) lane w k
  case half =>
    rintro rfl
    exact sliceRead_getLsbD (.inr rfl) lane w k

/-- Settles O27: the four size and mode classes of `storedWord`. -/
theorem writesStoreByWidthLaneAndMode : Obligations.WritesStoreByWidthLaneAndMode := by
  intro mode size lane data old
  refine ⟨?word, fun h hmode => ?merge, fun h hmode => ?rawForward, storedWord_other lane data old⟩
  case word =>
    rintro rfl
    rfl
  case merge =>
    subst hmode
    exact ⟨_, storedWord_merge lane data old h, fun k hk => mergeBytes_getLsbD h lane data old hk⟩
  case rawForward =>
    subst hmode
    exact ⟨_, storedWord_rawForward lane data old h, fun k _ => carriedData_getLsbD h data k⟩

end Sys2Proof.Machine
end

section
/-!
A register's word and its 32-bit write (R100, R101): a bus request executes as the wrapping of an access around them.
They settle O25, O31 and O33.
-/
namespace Sys2Proof.Machine

/-- The canonical word of a register (R100). -/
def regWord (r : Reg) (s : State) : Word :=
  match r with
  | .hcr => hcrWord s.hcr
  | .vtr => vtrWord s.cfg
  | .vmcr => vmcrWord s.vmcr
  | .misr => misr s
  | .eisr0 => eisr0 s
  | .eisr1 => 0#32
  | .elrsr0 => elrsr0 s
  | .elrsr1 => 0#32
  | .apr n => s.apr[n]
  | .lr n => lrRead n s
  | .rsvd _ => 0#32

/-- The 32-bit write of a register (R101). -/
def regWrite (r : Reg) : Word → State → State :=
  match r with
  | .hcr => hcrWrite
  | .vmcr => vmcrWrite
  | .apr n => aprWrite n
  | .lr n => lrWrite n
  | .vtr | .misr | .eisr0 | .eisr1 | .elrsr0 | .elrsr1 | .rsvd _ => ignoredWrite

/-- A bus read answers with its register's word (R65-R68). -/
theorem exec_readInstr (r : Reg) (size : BitVec 4) (lane : BitVec 2) (s : State) :
    exec (readInstr r size lane) s = .next (answerRead size lane (regWord r s) s) := by
  cases r <;> rfl

/-- A bus write wraps its register's 32-bit write (R69-R72). -/
theorem exec_writeInstr (r : Reg) (size : BitVec 4) (lane : BitVec 2) (data : Word) (s : State) :
    exec (writeInstr r size lane data) s = .next (answerWrite size lane data (regWord r s) (regWrite r) s) := by
  cases r <;> rfl

/-- A bus write of a register whose 32-bit write is ignored only answers with completion (R85). -/
theorem exec_writeInstr_ignored {r : Reg} (h : regWrite r = ignoredWrite) (size : BitVec 4) (lane : BitVec 2)
    (data : Word) (s : State) : exec (writeInstr r size lane data) s = .next (s.answer .writeDone) := by
  rw [exec_writeInstr, h, answerWrite_ignored]

/-- A list register reads as its slot's word when it is implemented and as 0 when not (R120). -/
theorem lrRead_eq (n : SlotIndex) (s : State) :
    lrRead n s = if n.val < s.cfg.nLr then encodeLR s.lr[n] else 0#32 :=
  if_congr (impl_iff s n) rfl rfl

/-- Every slice of 0 is 0. -/
theorem sliceRead_zero (size : BitVec 4) (lane : BitVec 2) : sliceRead size lane 0#32 = 0#32 := by
  simp [sliceRead]

/-- Settles O25: a read's row is the read of a register. -/
theorem readsReturnTheirRegisterAndChangeNothing : Obligations.ReadsReturnTheirRegisterAndChangeNothing := by
  intro size lane n k woff s returns
  have reads (r : Reg) : returns (readInstr r size lane) (regWord r s) := exec_readInstr r size lane s
  refine ⟨reads .hcr, reads .vtr, reads .vmcr, reads .misr, reads .eisr0, reads .eisr1, reads .elrsr0,
    reads .elrsr1, reads (.apr n), ?_, reads (.rsvd woff)⟩
  rw [← lrRead_eq]
  exact reads (.lr k)

/-- Settles O31: each row of the list is the write of a register whose 32-bit write is ignored. -/
theorem readOnlyAndReservedWritesAreIgnored : Obligations.ReadOnlyAndReservedWritesAreIgnored := by
  intro size lane data woff s i hi
  have ignored (r : Reg) (hr : regWrite r = ignoredWrite) (h : i = writeInstr r size lane data) :
      exec i s = .next (s.answer .writeDone) := by
    rw [h, exec_writeInstr_ignored hr]
  simp only [List.mem_cons, List.not_mem_nil, or_false] at hi
  rcases hi with h | h | h | h | h | h | h
  · exact ignored .vtr rfl h
  · exact ignored .misr rfl h
  · exact ignored .eisr0 rfl h
  · exact ignored .eisr1 rfl h
  · exact ignored .elrsr0 rfl h
  · exact ignored .elrsr1 rfl h
  · exact ignored (.rsvd woff) rfl h

/-- Settles O33: the slot's word is 0, its 32-bit write is ignored, and no word is handed over at other sizes. -/
theorem unimplementedLrIsZeroAndIgnoresWrites : Obligations.UnimplementedLrIsZeroAndIgnoresWrites := by
  intro size lane n data s
  refine ⟨fun hn => ?read, fun hwithout => ?write⟩
  case read =>
    have hword : lrRead n s = 0#32 := by rw [lrRead_eq, if_neg (by omega)]
    calc exec (.rdLr size lane n) s = .next (answerRead size lane (lrRead n s) s) := exec_readInstr (.lr n) size lane s
      _ = .next (s.answer (.readData 0#32)) := by rw [hword, answerRead, sliceRead_zero]
  case write =>
    have hexec := exec_writeInstr (.lr n) size lane data s
    rcases answerWrite_cases s size lane data (lrRead n s) (lrWrite n) with ⟨v, hword, hwrite⟩ | ⟨-, hwrite⟩
    · have hn : s.cfg.nLr ≤ n.val := hwithout.resolve_right fun ⟨h1, h2, h4⟩ => by
        rw [storedWord_other _ _ _ h1 h2 h4] at hword
        cases hword
      rw [lrWrite_unimplemented s n v ((impl_eq_false_iff s n).2 hn)] at hwrite
      exact hexec.trans (congrArg _ hwrite)
    · exact hexec.trans (congrArg _ hwrite)

end Sys2Proof.Machine
end

section
/-!
The step against the address rules (R60-R72, R100, R101): the register map on byte offsets, and the two descriptions of a
bus request. They settle O12, O13 and O14.
-/
namespace Sys2Proof.Machine

/-! ### The register map on byte offsets (R63, R82) -/

section Map
variable (w : BitVec 10)

/-- The active-priority words stand at 0x0F0 to 0x0FC. -/
theorem extractLsb'_eq_apr_iff : w.extractLsb' 2 8 = 0x0F#8 ↔ 0x0F0 ≤ 4 * w.toNat ∧ 4 * w.toNat ≤ 0x0FC := by
  have hw := w.isLt
  rw [← BitVec.toNat_inj, BitVec.extractLsb'_toNat, BitVec.toNat_ofNat, Nat.shiftRight_eq_div_pow]
  omega

/-- The list registers stand at 0x100 to 0x13C. -/
theorem extractLsb'_eq_lr_iff : w.extractLsb' 4 6 = 0x04#6 ↔ 0x100 ≤ 4 * w.toNat ∧ 4 * w.toNat ≤ 0x13C := by
  have hw := w.isLt
  rw [← BitVec.toNat_inj, BitVec.extractLsb'_toNat, BitVec.toNat_ofNat, Nat.shiftRight_eq_div_pow]
  omega

/-- An active-priority word's index is its distance from 0x0F0, in words. -/
theorem toFin_extractLsb'_apr (h : 0x0F0 ≤ 4 * w.toNat) :
    (w.extractLsb' 0 2).toFin = Fin.ofNat 4 ((4 * w.toNat - 0x0F0) / 4) := by
  simp only [Fin.ext_iff, BitVec.val_toFin, BitVec.extractLsb'_toNat, Fin.val_ofNat, Nat.shiftRight_zero]
  omega

/-- A list register's index is its distance from 0x100, in words. -/
theorem toFin_extractLsb'_lr (h : 0x100 ≤ 4 * w.toNat) :
    (w.extractLsb' 0 4).toFin = Fin.ofNat 16 ((4 * w.toNat - 0x100) / 4) := by
  simp only [Fin.ext_iff, BitVec.val_toFin, BitVec.extractLsb'_toNat, Fin.val_ofNat, Nat.shiftRight_zero]
  omega

/-- The register map by byte offset (R82). -/
theorem regAt_eq_of_offset :
    regAt w =
      if 4 * w.toNat = 0x000 then .hcr
      else if 4 * w.toNat = 0x004 then .vtr
      else if 4 * w.toNat = 0x008 then .vmcr
      else if 4 * w.toNat = 0x010 then .misr
      else if 4 * w.toNat = 0x020 then .eisr0
      else if 4 * w.toNat = 0x024 then .eisr1
      else if 4 * w.toNat = 0x030 then .elrsr0
      else if 4 * w.toNat = 0x034 then .elrsr1
      else if 0x0F0 ≤ 4 * w.toNat ∧ 4 * w.toNat ≤ 0x0FC then .apr (Fin.ofNat 4 ((4 * w.toNat - 0x0F0) / 4))
      else if 0x100 ≤ 4 * w.toNat ∧ 4 * w.toNat ≤ 0x13C then .lr (Fin.ofNat 16 ((4 * w.toNat - 0x100) / 4))
      else .rsvd w := by
  have place (k : Nat) (hk : k < 1024) : w = BitVec.ofNat 10 k ↔ 4 * w.toNat = 4 * k := by
    rw [← BitVec.toNat_inj, BitVec.toNat_ofNat]
    omega
  exact if_congr (place 0 (by decide)) rfl <| if_congr (place 1 (by decide)) rfl <|
    if_congr (place 2 (by decide)) rfl <| if_congr (place 4 (by decide)) rfl <|
    if_congr (place 8 (by decide)) rfl <| if_congr (place 9 (by decide)) rfl <|
    if_congr (place 12 (by decide)) rfl <| if_congr (place 13 (by decide)) rfl <|
    ite_congr (propext (extractLsb'_eq_apr_iff w)) (fun h => congrArg Reg.apr (toFin_extractLsb'_apr w h.1)) fun _ =>
    ite_congr (propext (extractLsb'_eq_lr_iff w)) (fun h => congrArg Reg.lr (toFin_extractLsb'_lr w h.1)) fun _ => rfl

variable {w} {woff : BitVec 12}

/-- `RegRead32` reads the register the decoder finds at the word offset (R82, R100). -/
theorem regRead32_eq (h : woff.toNat = 4 * w.toNat) (s : State) : regRead32 woff s = regWord (regAt w) s := by
  simp only [regRead32, regAt_eq_of_offset, h, apply_ite (regWord · s)]
  rfl

/-- `RegWrite32` writes the register the decoder finds at the word offset (R82, R101): where the two maps split the
offsets differently, the write is ignored. -/
theorem regWrite32_eq (h : woff.toNat = 4 * w.toNat) (v : Word) (s : State) :
    regWrite32 woff v s = regWrite (regAt w) v s := by
  simp only [regWrite32, regAt_eq_of_offset, h]
  split_ifs
  any_goals rfl
  all_goals omega

end Map

/-! ### The fields of an address and a size (R63, R64, R81) -/

/-- The word offset of an address is 4 times the descriptor's field (R63, R81). -/
theorem wordOffset_toNat (addr : Addr) : (wordOffset addr).toNat = 4 * (addr.extractLsb' 2 10).toNat := by
  have hshift : wordOffset addr = offsetOf addr >>> 2 <<< 2 := by
    rw [wordOffset, BitVec.shiftLeft_ushiftRight]
    rfl
  rw [hshift, BitVec.toNat_shiftLeft, BitVec.toNat_ushiftRight, offsetOf_toNat, BitVec.extractLsb'_toNat,
    Nat.shiftLeft_eq, Nat.shiftRight_eq_div_pow, Nat.shiftRight_eq_div_pow]
  omega

/-- The byte lane of an address is the descriptor's field (R63, R81). -/
theorem byteLane_eq (addr : Addr) : byteLane addr = (addr.extractLsb' 0 2).toNat := by
  simp [byteLane]

/-- The SIZE field holds a size from 1 to 15 as it is, and holds no other size as one of these (R81). -/
theorem encodeSize_eq_iff (size k : Nat) (hpos : 0 < k) (hk : k < 16) :
    encodeSize size = BitVec.ofNat 4 k ↔ size = k := by
  unfold encodeSize
  split <;> rw [← BitVec.toNat_inj, BitVec.toNat_ofNat, BitVec.toNat_ofNat] <;> omega

/-- The sizes with a meaning, and what is known of the SIZE field of every other (R64, R81). -/
theorem size_cases (size : Nat) :
    size = 1 ∨ size = 2 ∨ size = 4 ∨
      ((size ≠ 1 ∧ size ≠ 2 ∧ size ≠ 4) ∧
        encodeSize size ≠ 1#4 ∧ encodeSize size ≠ 2#4 ∧ encodeSize size ≠ 4#4) := by
  have hfield1 := encodeSize_eq_iff size 1 (by decide) (by decide)
  have hfield2 := encodeSize_eq_iff size 2 (by decide) (by decide)
  have hfield4 := encodeSize_eq_iff size 4 (by decide) (by decide)
  simp only [ne_eq, hfield1, hfield2, hfield4]
  omega

/-! ### The two descriptions of a bus request -/

section Agree
variable {s : State} {addr : Addr} (size : Nat) (data : Word)

/-- A bus read in the window is the wrapping of a read around the register at its address (R62-R68, R100). -/
theorem busRead_eq_answerRead (hin : inWindow s.cfg addr = true) :
    busRead addr size s =
      answerRead (encodeSize size) (addr.extractLsb' 0 2) (regWord (regAt (addr.extractLsb' 2 10)) s) s := by
  simp only [busRead, if_pos hin, byteLane_eq, regRead32_eq (wordOffset_toNat addr), answerRead]
  rcases size_cases size with rfl | rfl | rfl | ⟨⟨h1, h2, h4⟩, hfield1, hfield2, hfield4⟩
  · rfl
  · rfl
  · rfl
  · rw [if_neg h1, if_neg h2, if_neg h4, sliceRead_other hfield1 hfield2 hfield4]

/-- A 1- or 2-byte write is the wrapping of a write around the register at its address (R70, R71). -/
theorem subwordWrite_answer {field : BitVec 4} (h : field = 1#4 ∨ field = 2#4) :
    (subwordWrite addr (widthMask field) data s).answer .writeDone =
      answerWrite field (addr.extractLsb' 0 2) data (regWord (regAt (addr.extractLsb' 2 10)) s)
        (regWrite (regAt (addr.extractLsb' 2 10))) s := by
  have hmap := wordOffset_toNat addr
  cases hmode : s.cfg.subwordMode with
  | merge =>
    simp only [subwordWrite, answerWrite, hmode, storedWord_merge _ _ _ h, byteLane_eq, regRead32_eq hmap,
      regWrite32_eq hmap]
    rfl
  | rawForward =>
    simp only [subwordWrite, answerWrite, hmode, storedWord_rawForward _ _ _ h, regWrite32_eq hmap]
    rfl

/-- A bus write in the window is the wrapping of a write around the register at its address (R62-R64, R69-R72, R101). -/
theorem busWrite_eq_answerWrite (hin : inWindow s.cfg addr = true) :
    busWrite addr size data s =
      answerWrite (encodeSize size) (addr.extractLsb' 0 2) data (regWord (regAt (addr.extractLsb' 2 10)) s)
        (regWrite (regAt (addr.extractLsb' 2 10))) s := by
  rw [busWrite, if_pos hin]
  rcases size_cases size with rfl | rfl | rfl | ⟨⟨h1, h2, h4⟩, hfield1, hfield2, hfield4⟩
  · rw [if_pos rfl]
    exact subwordWrite_answer (field := 1#4) data (.inl rfl)
  · rw [if_neg (by decide), if_pos rfl]
    exact subwordWrite_answer (field := 2#4) data (.inr rfl)
  · rw [if_neg (by decide), if_neg (by decide), if_pos rfl, regWrite32_eq (wordOffset_toNat addr)]
    rfl
  · simp only [if_neg h1, if_neg h2, if_neg h4, answerWrite, storedWord_other _ _ _ hfield1 hfield2 hfield4]

end Agree

/-- A request whose window check fails gets the fault as its step (R61, R220, R221). -/
theorem step_of_present_error {s : State} {r : Request} {rest : List Request} {addr : Addr}
    (hinbox : s.inbox = r :: rest) (hpresent : present s.cfg r = .error (.invalidTarget addr)) :
    step s = .next (raiseInvalidTarget addr (s.setInbox rest)) := by
  rw [step_cons s r rest hinbox, runRequest, State.setInbox_cfg, hpresent]

/-- Settles O12: both descriptions wrap a read around one register, or report the address. -/
theorem stepOfBusReadAgreesWithAddressRules : Obligations.StepOfBusReadAgreesWithAddressRules := by
  intro s addr size rest hinbox
  have hpresent := present_busRead s.cfg addr size
  cases hin : inWindow s.cfg addr with
  | true =>
    rw [if_pos hin] at hpresent
    rw [stepRunsTheDecodedRequest s _ rest _ _ _ hinbox hpresent (decode_busDesc_read ..), exec_readInstr,
      busRead_eq_answerRead (s := { s with inbox := rest }) size hin]
  | false =>
    rw [hin] at hpresent
    rw [step_of_present_error hinbox hpresent, busRead, if_neg (by simp [hin])]
    rfl

/-- Settles O13: both descriptions wrap a write around one register, or report the address. -/
theorem stepOfBusWriteAgreesWithAddressRules : Obligations.StepOfBusWriteAgreesWithAddressRules := by
  intro s addr size data rest hinbox
  have hpresent := present_busWrite s.cfg addr size data
  cases hin : inWindow s.cfg addr with
  | true =>
    rw [if_pos hin] at hpresent
    rw [stepRunsTheDecodedRequest s _ rest _ _ _ hinbox hpresent (decode_busDesc_write ..), exec_writeInstr,
      busWrite_eq_answerWrite (s := { s with inbox := rest }) size data hin]
  | false =>
    rw [hin] at hpresent
    rw [step_of_present_error hinbox hpresent, busWrite, if_neg (by simp [hin])]
    rfl

/-- Settles O14: either kind of bus request fails its window check, whatever its width. -/
theorem outOfWindowRequestIsReportedAndChangesNothing : Obligations.OutOfWindowRequestIsReportedAndChangesNothing := by
  intro s addr size data rest r hout hr hinbox
  have hin : ¬ inWindow s.cfg addr = true := by
    rw [inWindow_iff]
    omega
  have hpresent : present s.cfg r = .error (.invalidTarget addr) := by
    rcases hr with rfl | rfl
    · rw [present_busRead, if_neg hin]
    · rw [present_busWrite, if_neg hin]
  exact ⟨step_of_present_error hinbox hpresent, rfl⟩

end Sys2Proof.Machine
end

section
/-!
A step's frame and a write's repetition (R75, R76, R244): what is left of the queue, and that the second of two equal
writes changes nothing. They settle O16 and O34.
-/
namespace Sys2Proof.Machine

variable {i : Instr} {s t : State}

/-! ### The queue (R76) -/

/-- No instruction touches the queue. -/
theorem exec_inbox (h : exec i s = .next t) : t.inbox = s.inbox :=
  exec_ensures (·.inbox = s.inbox) h (same := rfl) (answer := fun _ _ hu => hu)
    (wrHcr := fun _ _ _ _ _ => rfl) (wrVmcr := fun _ _ _ _ _ => rfl)
    (wrApr := fun _ _ _ _ _ _ => rfl) (wrLr := fun _ _ n _ v _ => lrWrite_inbox s n v)
    (ack := fun _ _ _ => rfl) (eoiUnmatched := fun _ _ => rfl) (eoiMatched := fun _ k _ _ => endSlot_inbox s k)
    (deact := fun _ _ _ => rfl) (setPws := fun _ _ => rfl)

/-- A step leaves the queue without its oldest request. -/
theorem step_inbox (h : step s = .next t) : t.inbox = s.inbox.tail := by
  rcases step_next_cases h with ⟨hnil, rfl⟩ | ⟨r, rest, addr, hcons, -, rfl⟩ |
    ⟨r, rest, desc, data, i, hcons, -, -, hexec⟩
  · rw [hnil, List.tail_nil]
  · rw [hcons, List.tail_cons]
    rfl
  · rw [hcons, List.tail_cons, exec_inbox hexec, State.setInbox_inbox]

/-- Settles O16: the configuration and the queue after each case of a step. -/
theorem stepKeepsConfigurationAndTakesOneRequest : Obligations.StepKeepsConfigurationAndTakesOneRequest := by
  intro s t h
  obtain ⟨hcfg, -⟩ := step_fixesUnimplemented h
  exact ⟨hcfg, step_inbox h⟩

/-! ### Writing the same data twice (R75) -/

/-- What a write hands over when its register holds what is left of the word `v` it handed over before, by the mask `m`
of the register's stored bits: a word with the same stored bits. -/
theorem storedWord_restored {mode : SubwordWriteMode} {size : BitVec 4} {lane : BitVec 2} {data old v : Word}
    (h : storedWord mode size lane data old = some v) (m : Word) :
    ∃ v', storedWord mode size lane data (v &&& m) = some v' ∧ v' &&& m = v &&& m := by
  rcases storedWord_cases mode size lane data old with ⟨rfl, hv⟩ | ⟨hsize, rfl, hv⟩ | ⟨hsize, rfl, hv⟩ |
    ⟨-, -, -, hv⟩
  · cases hv.symm.trans h
    exact ⟨data, rfl, rfl⟩
  · cases hv.symm.trans h
    exact ⟨_, storedWord_merge lane data _ hsize, mergeBytes_mergeBytes_and hsize lane data old m⟩
  · cases hv.symm.trans h
    exact ⟨_, storedWord_rawForward lane data _ hsize, rfl⟩
  · cases hv.symm.trans h

/-- A width without effect has none whatever the register holds (R72). -/
theorem storedWord_none_of_none {mode : SubwordWriteMode} {size : BitVec 4} {lane : BitVec 2} {data old : Word}
    (h : storedWord mode size lane data old = none) (old' : Word) :
    storedWord mode size lane data old' = none := by
  rcases storedWord_cases mode size lane data old with ⟨-, hv⟩ | ⟨-, -, hv⟩ | ⟨-, -, hv⟩ | ⟨h4, h1, h2, -⟩
  · cases hv.symm.trans h
  · cases hv.symm.trans h
  · cases hv.symm.trans h
  · exact storedWord_other lane data old' h1 h2 h4

/-- The register `r` of state `s` stores the bits `m` of a written word: its word is then those bits, and another write
of them changes nothing. -/
structure StoresBits (r : Reg) (m : Word) (s : State) : Prop where
  cfg : ∀ v, (regWrite r v s).cfg = s.cfg
  word : ∀ v, regWord r ((regWrite r v s).answer .writeDone) = v &&& m
  again : ∀ v v', v' &&& m = v &&& m →
    regWrite r v' ((regWrite r v s).answer .writeDone) = (regWrite r v s).answer .writeDone

/-- A repeated bus write of a register that stores its bits changes nothing. -/
theorem StoresBits.answerWrite_twice {r : Reg} {m : Word} (h : StoresBits r m s) {size : BitVec 4} {lane : BitVec 2}
    {data : Word} (ht : answerWrite size lane data (regWord r s) (regWrite r) s = t) :
    answerWrite size lane data (regWord r t) (regWrite r) t = t := by
  rcases answerWrite_cases s size lane data (regWord r s) (regWrite r) with ⟨v, hv, hs⟩ | ⟨hv, hs⟩
  · obtain ⟨v', hv', hsame⟩ := storedWord_restored hv m
    obtain rfl := hs.symm.trans ht
    simp only [answerWrite, h.word, State.answer_cfg, h.cfg, hv', h.again v v' hsame]
    rfl
  · obtain rfl := hs.symm.trans ht
    simp only [answerWrite, State.answer_cfg, storedWord_none_of_none hv]
    rfl

/-- Executing the write of such a register twice leaves what executing it once leaves. -/
theorem StoresBits.exec_twice {r : Reg} {m : Word} (h : StoresBits r m s) (size : BitVec 4) (lane : BitVec 2)
    (data : Word) :
    ∃ t, exec (writeInstr r size lane data) s = .next t ∧ exec (writeInstr r size lane data) t = .next t :=
  ⟨_, exec_writeInstr .., by rw [exec_writeInstr, h.answerWrite_twice rfl]⟩

/-- Words with the same stored bits decode alike, for a codec whose decoded words encode to their stored bits. -/
theorem decode_eq_of_stored_eq {α : Type} {enc : α → Word} {dec : Word → α} {m : Word}
    (hdec : ∀ x, dec (enc x) = x) (henc : ∀ v, enc (dec v) = v &&& m) {v v' : Word} (h : v' &&& m = v &&& m) :
    dec v' = dec v :=
  calc dec v' = dec (enc (dec v')) := (hdec _).symm
    _ = dec (enc (dec v)) := by rw [henc, h, ← henc]
    _ = dec v := hdec _

/-- HCR stores all bits but its reserved ones (R39, R103). -/
theorem storesBits_hcr (s : State) : StoresBits .hcr 0xF80000FF#32 s where
  cfg _ := rfl
  word v := hcrWord_hcrOfWord v
  again v v' h := by
    have hfields : hcrOfWord v' = hcrOfWord v := decode_eq_of_stored_eq hcrOfWord_hcrWord hcrWord_hcrOfWord h
    simp only [regWrite, hcrWrite, hfields]
    rfl

/-- VMCR stores all bits but its reserved ones (R39, R107). -/
theorem storesBits_vmcr (s : State) : StoresBits .vmcr 0xF8FC021F#32 s where
  cfg _ := rfl
  word v := vmcrWord_vmcrOfWord v
  again v v' h := by
    have hfields : vmcrOfWord v' = vmcrOfWord v := decode_eq_of_stored_eq vmcrOfWord_vmcrWord vmcrWord_vmcrOfWord h
    simp only [regWrite, vmcrWrite, hfields]
    rfl

/-- An active-priority word stores every bit (R119). -/
theorem storesBits_apr (n : AprIndex) (s : State) : StoresBits (.apr n) (BitVec.allOnes 32) s where
  cfg _ := rfl
  word v := by
    rw [BitVec.and_allOnes]
    simp [regWord, regWrite, aprWrite]
  again v v' h := by
    rw [BitVec.and_allOnes, BitVec.and_allOnes] at h
    simp [h, regWrite, aprWrite, State.setApr, State.answer]

/-- Replacing a slot by itself changes nothing where the EOI flag of a slot not Inactive is clear and the priority of an
active slot is recorded (R142-R147). -/
theorem replaceSlot_self {n : SlotIndex} {x : Slot} (hslot : s.lr[n] = x)
    (heoif : x.state ≠ .inactive → s.eoif[n] = false)
    (hapr : x.state.isActive = true → s.apr[0] ||| priorityBit x.pri = s.apr[0]) : replaceSlot n x x s = s := by
  have hset : s.setSlot n x = s := by
    subst hslot
    simp [State.setSlot]
  have hflag : eoifOnWrite n x x s = s := by
    rcases eoifOnWrite_cases s n x x with ⟨-, -, h⟩ | ⟨hx, h⟩
    · exact h
    · rw [h, State.setEoif, ← heoif fun hi => hx ⟨hi, hi⟩]
      simp
  have hrelease : aprRelease x x s = s := by
    simp [aprRelease, releases]
  have hrecord : aprRecordOnWrite x s = s := by
    rcases aprRecordOnWrite_cases s x with ⟨hx, h⟩ | ⟨-, h⟩
    · rw [h, aprRecord, hapr hx]
      simp [State.setApr]
    · exact h
  rw [replaceSlot, hset, hflag, hrelease, hrecord]

/-- APR[0] holds the priority of a slot written active (R146). -/
theorem replaceSlot_apr_or {n : SlotIndex} {old new : Slot} (h : new.state.isActive = true) :
    (replaceSlot n old new s).apr[0] ||| priorityBit new.pri = (replaceSlot n old new s).apr[0] := by
  have hrecord (u : State) : (aprRecordOnWrite new u).apr[0] = u.apr[0] ||| priorityBit new.pri := by
    simp [aprRecordOnWrite, h, aprRecord]
  rw [replaceSlot, hrecord, BitVec.or_assoc, BitVec.or_self]

/-- A written slot's EOI flag is clear unless the slot is Inactive (R144). -/
theorem replaceSlot_eoif_get {n : SlotIndex} {old new : Slot} (h : new.state ≠ .inactive) :
    (replaceSlot n old new s).eoif[n] = false := by
  rw [replaceSlot_eoif, if_neg fun hboth => h hboth.2]
  simp

/-- An implemented list register stores all bits but [22:20] (R141): its slot's flag and its priority's record are
already as a second write of those bits leaves them. -/
theorem storesBits_lr {n : SlotIndex} (hn : s.impl n = true) : StoresBits (.lr n) 0xFF8FFFFF#32 s := by
  have himpl (v : Word) : ((lrWrite n v s).answer .writeDone).impl n = true := by
    rw [← hn, State.answer_impl, State.impl, lrWrite_cfg, State.impl]
  have hslot (v : Word) : ((lrWrite n v s).answer .writeDone).lr[n] = decodeLR v := by
    simp [lrWrite_implemented s n v hn]
  refine ⟨lrWrite_cfg s n, fun v => ?word, fun v v' h => ?again⟩
  case word =>
    rw [← encodeLR_decodeLR, ← hslot]
    exact if_pos (himpl v)
  case again =>
    have hfields : decodeLR v' = decodeLR v := decode_eq_of_stored_eq decodeLR_encodeLR encodeLR_decodeLR h
    calc lrWrite n v' ((lrWrite n v s).answer .writeDone)
        = replaceSlot n (decodeLR v) (decodeLR v) ((lrWrite n v s).answer .writeDone) := by
          rw [lrWrite_implemented _ n v' (himpl v), hslot, hfields]
      _ = (lrWrite n v s).answer .writeDone := by
          refine replaceSlot_self (hslot v) (fun hstate => ?_) fun hactive => ?_ <;>
            rw [lrWrite_implemented s n v hn]
          · exact replaceSlot_eoif_get hstate
          · exact replaceSlot_apr_or hactive

/-- Settles O34: each of the four registers stores bits of the written word, and an unimplemented list register ignores
both writes. -/
theorem writingTwiceIsWritingOnce : Obligations.WritingTwiceIsWritingOnce := by
  intro size lane n k data s i hi
  simp only [List.mem_cons, List.not_mem_nil, or_false] at hi
  rcases hi with rfl | rfl | rfl | rfl
  · exact (storesBits_hcr s).exec_twice size lane data
  · exact (storesBits_vmcr s).exec_twice size lane data
  · exact (storesBits_apr n s).exec_twice size lane data
  · cases hk : s.impl k with
    | true => exact (storesBits_lr hk).exec_twice size lane data
    | false =>
      have hout : s.cfg.nLr ≤ k.val := (impl_eq_false_iff s k).1 hk
      have ignored (u : State) (hu : u.cfg = s.cfg) :=
        (unimplementedLrIsZeroAndIgnoresWrites size lane k data u).2 (.inl (hu ▸ hout))
      exact ⟨_, ignored s rfl, ignored (s.answer .writeDone) rfl⟩

end Sys2Proof.Machine
end

section
/-!
The requests seen as register reads, register writes and events, and the decoder against the encoder (R81-R88): one case
analysis of what a descriptor decodes to, from which every fact about decoding follows. They settle O1, O2, O3, O5, O6
and O7.
-/
namespace Sys2Proof.Machine

/-! ### A request is a register's read, a register's write or an event (R80, R82) -/

/-- To show a property of every request, show it of the bus requests of each register and of each event. -/
theorem requestCases {motive : Instr → Prop} (i : Instr)
    (read : ∀ r size lane, motive (readInstr r size lane))
    (write : ∀ r size lane data, motive (writeInstr r size lane data))
    (ack : motive .evAck) (eoi : ∀ vid, motive (.evEoi vid)) (deact : ∀ index, motive (.evDeact index))
    (setPws : ∀ b, motive (.evSetPws b)) : motive i := by
  cases i with
  | evAck => exact ack
  | evEoi vid => exact eoi vid
  | evDeact index => exact deact index
  | evSetPws b => exact setPws b
  | rdHcr size lane => exact read .hcr size lane
  | wrHcr size lane data => exact write .hcr size lane data
  | rdVtr size lane => exact read .vtr size lane
  | wrVtr size lane data => exact write .vtr size lane data
  | rdVmcr size lane => exact read .vmcr size lane
  | wrVmcr size lane data => exact write .vmcr size lane data
  | rdMisr size lane => exact read .misr size lane
  | wrMisr size lane data => exact write .misr size lane data
  | rdEisr0 size lane => exact read .eisr0 size lane
  | wrEisr0 size lane data => exact write .eisr0 size lane data
  | rdEisr1 size lane => exact read .eisr1 size lane
  | wrEisr1 size lane data => exact write .eisr1 size lane data
  | rdElrsr0 size lane => exact read .elrsr0 size lane
  | wrElrsr0 size lane data => exact write .elrsr0 size lane data
  | rdElrsr1 size lane => exact read .elrsr1 size lane
  | wrElrsr1 size lane data => exact write .elrsr1 size lane data
  | rdApr size lane n => exact read (.apr n) size lane
  | wrApr size lane n data => exact write (.apr n) size lane data
  | rdLr size lane n => exact read (.lr n) size lane
  | wrLr size lane n data => exact write (.lr n) size lane data
  | rdRsvd size lane woff => exact read (.rsvd woff) size lane
  | wrRsvd size lane woff data => exact write (.rsvd woff) size lane data

section Bus
variable (r : Reg) (size : BitVec 4) (lane : BitVec 2) (data : Word)

/-- A register's read encodes as a bus read of the register's offset. -/
theorem encode_readInstr : encode (readInstr r size lane) = encodeRead r size lane := by
  cases r <;> rfl

/-- A register's write encodes as a bus write of the register's offset. -/
theorem encode_writeInstr : encode (writeInstr r size lane data) = encodeWrite r size lane data := by
  cases r <;> rfl

/-! ### The registers of the map (R82) -/

/-- The reserved words of R122 are the words the register map leaves over (R82). -/
theorem reservedWoff_iff (woff : BitVec 10) : reservedWoff woff = true ↔ regAt woff = .rsvd woff := by
  rw [regAt_eq_of_offset]
  simp only [reservedWoff, Bool.or_eq_true, Bool.and_eq_true, beq_iff_eq, decide_eq_true_eq]
  split_ifs
  case neg =>
    refine iff_of_true ?_ rfl
    omega
  all_goals
    refine iff_of_false ?_ nofun
    omega

/-- A register's read is well-formed exactly when the register map has the register at its offset. -/
theorem wellFormed_readInstr_iff : (readInstr r size lane).wellFormed = true ↔ regAt (regWoff r) = r := by
  cases r with
  | rsvd woff => exact reservedWoff_iff woff
  | _ => exact iff_of_true rfl (regAt_regWoff _ (by simp))

/-- A register's write is well-formed exactly when the register map has the register at its offset. -/
theorem wellFormed_writeInstr_iff : (writeInstr r size lane data).wellFormed = true ↔ regAt (regWoff r) = r := by
  cases r with
  | rsvd woff => exact reservedWoff_iff woff
  | _ => exact iff_of_true rfl (regAt_regWoff _ (by simp))

end Bus

/-- The register at an offset stands at that offset (R82). -/
theorem regWoff_regAt (woff : BitVec 10) : regWoff (regAt woff) = woff := by
  have hapr : woff.extractLsb' 2 8 = 0x0F#8 → regWoff (.apr (woff.extractLsb' 0 2).toFin) = woff := by
    intro hmap
    rw [regWoff, ← hmap, BitVec.val_toFin, BitVec.ofNat_toNat, BitVec.setWidth_eq]
    exact BitVec.extractLsb'_append_extractLsb'
  have hlr : woff.extractLsb' 4 6 = 0x04#6 → regWoff (.lr (woff.extractLsb' 0 4).toFin) = woff := by
    intro hmap
    rw [regWoff, ← hmap, BitVec.val_toFin, BitVec.ofNat_toNat, BitVec.setWidth_eq]
    exact BitVec.extractLsb'_append_extractLsb'
  unfold regAt
  split_ifs with h h h h h h h h h h
  case neg => rfl
  any_goals exact h.symm
  · exact hapr h
  · exact hlr h

/-! ### What a descriptor decodes to (R81-R84, R86) -/

/-- The descriptor is the event of a code (R81). -/
structure IsEvent (desc : Descriptor) (code : BitVec 4) : Prop where
  kind : kindField desc = 2#2
  zero : eventZeroField desc = 0#8
  code : codeField desc = code

/-- The requests a descriptor and an operand can stand for, kind by kind (R81-R84). -/
inductive StandsFor (desc : Descriptor) (data : Word) : Instr → Prop where
  | read (hkind : kindField desc = 0#2) :
    StandsFor desc data (readInstr (regAt (woffField desc)) (sizeField desc) (laneField desc))
  | write (hkind : kindField desc = 1#2) :
    StandsFor desc data (writeInstr (regAt (woffField desc)) (sizeField desc) (laneField desc) data)
  | ack (hevent : IsEvent desc 0#4) : StandsFor desc data .evAck
  | eoi (hevent : IsEvent desc 1#4) : StandsFor desc data (.evEoi (data.extractLsb' 0 10))
  | deact (hevent : IsEvent desc 2#4) : StandsFor desc data (.evDeact (data.extractLsb' 0 4).toFin)
  | setPws (hevent : IsEvent desc 3#4) : StandsFor desc data (.evSetPws (data.getLsbD 0))

section Descriptor
variable {desc : Descriptor} {data : Word} {code : BitVec 4} {i : Instr}

/-- An event decodes by its code (R81). -/
theorem decode_event (h : IsEvent desc code) (data : Word) : decode desc data = decodeEvent code data := by
  rw [decode, if_pos h.kind, if_pos h.zero, h.code]

/-- The codes from 4 up name no event (R86). -/
theorem decodeEvent_error (h : 3 < code.toNat) (data : Word) : decodeEvent code data = .error .reservedEventCode := by
  have hne (c : BitVec 4) (hc : c.toNat ≤ 3) : code ≠ c := by
    rintro rfl
    omega
  simp [decodeEvent, hne]

/-- An event of the codes 0 to 3 is not reserved (R86). -/
theorem IsEvent.not_reserved (h : IsEvent desc code) (hcode : code.toNat ≤ 3) : ¬ ReservedDescriptor desc := by
  obtain ⟨hkind, hzero, rfl⟩ := h
  rw [ReservedDescriptor, hkind, hzero]
  simpa using hcode

/-- What stands for a request is not reserved (R86). -/
theorem StandsFor.not_reserved (h : StandsFor desc data i) : ¬ ReservedDescriptor desc := by
  cases h with
  | read hkind => simp [ReservedDescriptor, hkind]
  | write hkind => simp [ReservedDescriptor, hkind]
  | ack hevent => exact hevent.not_reserved (by decide)
  | eoi hevent => exact hevent.not_reserved (by decide)
  | deact hevent => exact hevent.not_reserved (by decide)
  | setPws hevent => exact hevent.not_reserved (by decide)

/-- What stands for a request decodes to it. -/
theorem StandsFor.decode (h : StandsFor desc data i) : decode desc data = .ok i := by
  cases h with
  | read hkind => simp [Sys2Proof.decode, hkind]
  | write hkind => simp [Sys2Proof.decode, hkind]
  | ack hevent => exact decode_event hevent data
  | eoi hevent => exact decode_event hevent data
  | deact hevent => exact decode_event hevent data
  | setPws hevent => exact decode_event hevent data

/-- A descriptor is reserved and rejected, or it stands for a request (R84, R86). -/
theorem decode_cases (desc : Descriptor) (data : Word) :
    (ReservedDescriptor desc ∧ ∃ why, decode desc data = .error why) ∨ ∃ i, StandsFor desc data i := by
  have kinds : ∀ kind : BitVec 2, kind = 0#2 ∨ kind = 1#2 ∨ kind = 2#2 ∨ kind = 3#2 := by decide
  have codes : ∀ code : BitVec 4, code = 0#4 ∨ code = 1#4 ∨ code = 2#4 ∨ code = 3#4 ∨ 3 < code.toNat := by decide
  rcases kinds (kindField desc) with hkind | hkind | hkind | hkind
  · exact .inr ⟨_, .read hkind⟩
  · exact .inr ⟨_, .write hkind⟩
  · by_cases hzero : eventZeroField desc = 0#8
    · rcases codes (codeField desc) with hcode | hcode | hcode | hcode | hcode
      · exact .inr ⟨_, .ack ⟨hkind, hzero, hcode⟩⟩
      · exact .inr ⟨_, .eoi ⟨hkind, hzero, hcode⟩⟩
      · exact .inr ⟨_, .deact ⟨hkind, hzero, hcode⟩⟩
      · exact .inr ⟨_, .setPws ⟨hkind, hzero, hcode⟩⟩
      · exact .inl ⟨.inr ⟨hkind, .inl hcode⟩, _,
          (decode_event ⟨hkind, hzero, rfl⟩ data).trans (decodeEvent_error hcode data)⟩
    · exact .inl ⟨.inr ⟨hkind, .inr hzero⟩, .eventOffsetNotZero, by simp [decode, hkind, hzero]⟩
  · exact .inl ⟨.inl hkind, .reservedKind, by simp [decode, hkind]⟩

/-- A descriptor stands for the request it decodes to. -/
theorem standsFor_of_decode (h : decode desc data = .ok i) : StandsFor desc data i := by
  rcases decode_cases desc data with ⟨-, why, herror⟩ | ⟨j, hj⟩
  · cases herror.symm.trans h
  · cases hj.decode.symm.trans h
    exact hj

end Descriptor

/-- Settles O3: of the two cases of a descriptor, the reserved one is the rejected one. -/
theorem decodeRejectsExactlyReservedDescriptors : Obligations.DecodeRejectsExactlyReservedDescriptors := by
  intro desc data
  rcases decode_cases desc data with ⟨hreserved, hwhy⟩ | ⟨i, hi⟩
  · exact iff_of_true hwhy hreserved
  · exact iff_of_false (fun ⟨_, herror⟩ => nomatch hi.decode.symm.trans herror) hi.not_reserved

/-! ### Decoding an encoded request -/

/-- A field placed at bit 0 is read back. -/
theorem extractLsb'_setWidth {w : Nat} (x : BitVec w) (h : w ≤ 32) : (x.setWidth 32).extractLsb' 0 w = x := by
  have := extractLsb'_placed_self x (n := 0) (by omega)
  rwa [BitVec.shiftLeft_zero] at this

/-- Settles O1: a bus request's fields are those of its descriptor, and its register stands at its offset; an event's
argument is read back from the operand. -/
theorem decodeInvertsEncode : Obligations.DecodeInvertsEncode := by
  intro i hwf
  cases i using requestCases with
  | read r size lane =>
    rw [encode_readInstr, encodeRead, decode_busDesc_read, (wellFormed_readInstr_iff r size lane).1 hwf]
  | write r size lane data =>
    rw [encode_writeInstr, encodeWrite, decode_busDesc_write, (wellFormed_writeInstr_iff r size lane data).1 hwf]
  | ack => exact decode_event ⟨rfl, rfl, rfl⟩ 0#32
  | eoi vid =>
    calc decode 0x20001#18 (vid.setWidth 32) = decodeEvent 1#4 (vid.setWidth 32) := decode_event ⟨rfl, rfl, rfl⟩ _
      _ = .ok (.evEoi ((vid.setWidth 32).extractLsb' 0 10)) := rfl
      _ = .ok (.evEoi vid) := by rw [extractLsb'_setWidth vid (by decide)]
  | deact index => revert index; decide
  | setPws b => cases b <;> rfl

/-! ### The assembler (R88) -/

/-- A bus descriptor with a register's byte offset is made of the register's word offset and the byte (R63, R88). -/
theorem append_regOffset (kind : BitVec 2) (size : BitVec 4) (r : Reg) (k : BitVec 2) :
    (kind ++ size ++ regOffset r k : Descriptor) = busDesc kind size (regWoff r) k :=
  (BitVec.append_assoc (x₁ := kind ++ size) (x₂ := regWoff r) (x₃ := k)).symm

/-- The text of a read of a named register's byte assembles to the encoding of that read. -/
theorem assemble_rd (r : Reg) (size : Nat) (k : BitVec 2) :
    assemble (.rd size (regOffset r k)) = encode (readInstr r (encodeSize size) k) := by
  rw [assemble, append_regOffset, encode_readInstr, encodeRead]

/-- The text of a write of a named register's byte assembles to the encoding of that write. -/
theorem assemble_wr (r : Reg) (size : Nat) (k : BitVec 2) (data : Word) :
    assemble (.wr size (regOffset r k) data) = encode (writeInstr r (encodeSize size) k data) := by
  rw [assemble, append_regOffset, encode_writeInstr, encodeWrite]

/-- Settles O7: each text assembles to the encoding of the request it names, which is well-formed, and so it decodes. -/
theorem assembledRequestsDecodeAsNamed : Obligations.AssembledRequestsDecodeAsNamed := by
  refine ⟨fun r size k hnamed => ?_, fun r size k data hnamed => ?_, decodeInvertsEncode .evAck rfl,
    fun vid => decodeInvertsEncode (.evEoi vid) rfl, fun index => decodeInvertsEncode (.evDeact index) rfl,
    fun b => decodeInvertsEncode (.evSetPws b) rfl⟩
  · rw [assemble_rd]
    exact decodeInvertsEncode _ ((wellFormed_readInstr_iff ..).2 (regAt_regWoff r hnamed))
  · rw [assemble_wr]
    exact decodeInvertsEncode _ ((wellFormed_writeInstr_iff ..).2 (regAt_regWoff r hnamed))

/-! ### Encoding a decoded request -/

/-- The lowest bits of an operand, placed back at bit 0, mask the operand. -/
theorem setWidth_extractLsb' (data : Word) (w : Nat) :
    (data.extractLsb' 0 w).setWidth 32 = data &&& (BitVec.allOnes w).setWidth 32 := by
  have := placed_extractLsb' data w 0
  rwa [BitVec.shiftLeft_zero, BitVec.shiftLeft_zero] at this

/-- The bits of an event's descriptor that count: all but SIZE (R81). -/
theorem and_eventMask (desc : Descriptor) :
    desc &&& 0x30FFF#18 = kindField desc ++ 0#4 ++ eventZeroField desc ++ codeField desc := by
  have hfields : kindField desc ++ sizeField desc ++ eventZeroField desc ++ codeField desc = desc := by
    rw [kindField, sizeField, eventZeroField, codeField,
      BitVec.extractLsb'_append_extractLsb'_eq_extractLsb' (rfl : 16 = 12 + 4),
      BitVec.extractLsb'_append_extractLsb'_eq_extractLsb' (rfl : 12 = 4 + 8),
      BitVec.extractLsb'_append_extractLsb'_eq_extractLsb' (rfl : 4 = 0 + 4)]
    exact BitVec.extractLsb'_eq_self
  have hmask : (0x30FFF#18 : Descriptor) = BitVec.allOnes 2 ++ 0#4 ++ BitVec.allOnes 8 ++ BitVec.allOnes 4 := by decide
  calc desc &&& 0x30FFF#18
      = (kindField desc ++ sizeField desc ++ eventZeroField desc ++ codeField desc) &&&
          (BitVec.allOnes 2 ++ 0#4 ++ BitVec.allOnes 8 ++ BitVec.allOnes 4) := by rw [hfields, hmask]
    _ = kindField desc ++ 0#4 ++ eventZeroField desc ++ codeField desc := by
      simp only [BitVec.and_append, BitVec.and_allOnes, BitVec.and_zero]

/-- An event's descriptor is fixed by its code, up to SIZE (R81). -/
theorem IsEvent.and_eventMask {desc : Descriptor} {code : BitVec 4} (h : IsEvent desc code) :
    desc &&& 0x30FFF#18 = 2#2 ++ 0#4 ++ 0#8 ++ code := by
  rw [Machine.and_eventMask, h.kind, h.zero, h.code]

/-- Settles O2: a bus request's register stands at the descriptor's offset, and a descriptor is its fields; an event's
descriptor is fixed by its code, and its argument placed in the operand masks the operand. -/
theorem encodeInvertsDecode : Obligations.EncodeInvertsDecode := by
  intro desc data i hdecode
  have hfields := busDesc_fields desc
  have hplaced := congrArg regAt (regWoff_regAt (woffField desc))
  cases standsFor_of_decode hdecode with
  | read hkind =>
    rw [hkind] at hfields ⊢
    refine ⟨(wellFormed_readInstr_iff ..).2 hplaced, fun _ => ?_, nofun, nofun⟩
    rw [encode_readInstr, encodeRead, regWoff_regAt, hfields]
  | write hkind =>
    rw [hkind] at hfields ⊢
    refine ⟨(wellFormed_writeInstr_iff ..).2 hplaced, nofun, fun _ => ?_, nofun⟩
    rw [encode_writeInstr, encodeWrite, regWoff_regAt, hfields]
  | ack hevent =>
    rw [hevent.and_eventMask, hevent.kind, hevent.code]
    exact ⟨rfl, nofun, nofun, fun _ => ⟨rfl, fun _ => rfl, nofun, nofun, nofun⟩⟩
  | eoi hevent =>
    rw [hevent.and_eventMask, hevent.kind, hevent.code]
    refine ⟨rfl, nofun, nofun, fun _ => ⟨rfl, nofun, fun _ => ?_, nofun, nofun⟩⟩
    exact setWidth_extractLsb' data 10
  | deact hevent =>
    rw [hevent.and_eventMask, hevent.kind, hevent.code]
    refine ⟨rfl, nofun, nofun, fun _ => ⟨rfl, nofun, nofun, fun _ => ?_, nofun⟩⟩
    exact (BitVec.ofNat_toNat _ _).trans (setWidth_extractLsb' data 4)
  | setPws hevent =>
    rw [hevent.and_eventMask, hevent.kind, hevent.code]
    refine ⟨rfl, nofun, nofun, fun _ => ⟨rfl, nofun, nofun, nofun, fun _ => ?_⟩⟩
    exact (BitVec.shiftLeft_zero _).symm.trans (bitAt_getLsbD_eq_and data 0)

/-! ### Fixed offsets and words (R81-R83) -/

/-- Settles O5: the words of the map, the indexed ones among them by their index, and the words it leaves over. -/
theorem registerMapPlacesEveryWordOffset : Obligations.RegisterMapPlacesEveryWordOffset :=
  ⟨rfl, rfl, rfl, rfl, rfl, rfl, rfl, rfl, by decide, by decide, reservedWoff_iff⟩

/-- Settles O6: each descriptor is a bus request's fields or an event. -/
theorem writtenOutWordsDecode : Obligations.WrittenOutWordsDecode :=
  ⟨decode_busDesc_read 4 0x000 0 0, decode_busDesc_write 4 0x045 0 _, decode_busDesc_read 2 0x03C 1 0,
    decode_busDesc_write 1 0x002 3 _, decode_event ⟨rfl, rfl, rfl⟩ _, decode_event ⟨rfl, rfl, rfl⟩ _,
    decode_event ⟨rfl, rfl, rfl⟩ _⟩

end Sys2Proof.Machine
end

section
/-!
What a step can end in (R86, R222), and the pseudo-requests on their slot (R89). They settle O8 and O11.
-/
namespace Sys2Proof.Machine

variable {s : State} {desc : Descriptor} {data : Word}

/-! ### Every instruction completes (R222) -/

/-- Every instruction has a next state in every state. -/
theorem exec_completes (i : Instr) (s : State) : ∃ t, exec i s = .next t := by
  cases i using requestCases with
  | read r size lane => exact ⟨_, exec_readInstr r size lane s⟩
  | write r size lane data => exact ⟨_, exec_writeInstr r size lane data s⟩
  | ack =>
    cases h : hppi s with
    | none => exact ⟨_, execEvAck_none s h⟩
    | some k => exact ⟨_, execEvAck_some s h⟩
  | eoi vid =>
    cases h : eoiMatch vid s with
    | none => exact ⟨_, execEvEoi_none s vid h⟩
    | some k => exact ⟨_, execEvEoi_some s vid h⟩
  | deact index => exact ⟨_, rfl⟩
  | setPws b => exact ⟨_, rfl⟩

/-! ### The only stop (R86) -/

/-- The oldest request is a reserved descriptor, which is no request. -/
def ReservedIsNext (s : State) : Prop :=
  ∃ desc data rest, s.inbox = .described desc data :: rest ∧ ReservedDescriptor desc

/-- A described request is refused, its descriptor being reserved, or completes. -/
theorem runDescribed_cases (desc : Descriptor) (data : Word) (s : State) :
    (ReservedDescriptor desc ∧ ∃ why, runDescribed desc data s = .refused why) ∨
    (¬ ReservedDescriptor desc ∧ ∃ t, runDescribed desc data s = .next t) := by
  rcases decode_cases desc data with ⟨hreserved, why, herror⟩ | ⟨i, hi⟩
  · exact .inl ⟨hreserved, _, runDescribed_error herror s⟩
  · obtain ⟨t, ht⟩ := exec_completes i s
    exact .inr ⟨hi.not_reserved, t, (runDescribed_ok hi.decode s).trans ht⟩

/-- A described oldest request alone decides whether the next request is reserved. -/
theorem reservedIsNext_described {rest : List Request} (h : s.inbox = .described desc data :: rest) :
    ReservedIsNext s ↔ ReservedDescriptor desc := by
  refine ⟨fun ⟨desc', data', rest', hinbox, hreserved⟩ => ?_, fun hreserved => ⟨desc, data, rest, h, hreserved⟩⟩
  cases h.symm.trans hinbox
  exact hreserved

/-- A step is refused, a reserved descriptor being next, or completes: bus requests and the empty queue have no stop. -/
theorem step_cases (s : State) :
    (ReservedIsNext s ∧ ∃ why, step s = .refused why) ∨ (¬ ReservedIsNext s ∧ ∃ t, step s = .next t) := by
  cases hinbox : s.inbox with
  | nil => exact .inr ⟨by simp [ReservedIsNext, hinbox], s, step_nil s hinbox⟩
  | cons r rest =>
    cases r with
    | busRead addr size =>
      exact .inr ⟨by simp [ReservedIsNext, hinbox], _, stepOfBusReadAgreesWithAddressRules s addr size rest hinbox⟩
    | busWrite addr size data =>
      exact .inr ⟨by simp [ReservedIsNext, hinbox], _,
        stepOfBusWriteAgreesWithAddressRules s addr size data rest hinbox⟩
    | described desc data =>
      have hstep : step s = runDescribed desc data (s.setInbox rest) := step_cons s _ rest hinbox
      rw [reservedIsNext_described hinbox, hstep]
      exact runDescribed_cases desc data (s.setInbox rest)

/-- Settles O11: neither case of a step is a fault, and the refused one is that of a reserved descriptor. -/
theorem stepStopsOnlyAtReservedDescriptors : Obligations.StepStopsOnlyAtReservedDescriptors := by
  intro s
  rcases step_cases s with ⟨hreserved, why, hstep⟩ | ⟨hfree, t, hstep⟩
  · exact ⟨fun f => by simp [hstep], iff_of_true ⟨why, hstep⟩ hreserved⟩
  · exact ⟨fun f => by simp [hstep], iff_of_false (by simp [hstep]) hfree⟩

/-! ### The pseudo-requests (R89, R142) -/

/-- A slot write of the assembler is one 4-byte write of its list register. -/
theorem step_writeSlotAsm (s : State) (rest : List Request) (n : SlotIndex) (data : Word) :
    step (s.setInbox (assembledRequest (writeSlotAsm n data) :: rest)) =
      .next ((lrWrite n data (s.setInbox rest)).answer .writeDone) := by
  obtain ⟨-, hwrite, -⟩ := assembledRequestsDecodeAsNamed
  have hdecode := hwrite (.lr n) 4 0 data nofun
  calc step (s.setInbox (assembledRequest (writeSlotAsm n data) :: rest))
      = exec (writeInstr (.lr n) 4#4 0 data) (s.setInbox rest) :=
        stepRunsTheDecodedRequest _ _ rest _ _ _ rfl rfl hdecode
    _ = .next (answerWrite 4#4 0 data (lrRead n (s.setInbox rest)) (lrWrite n) (s.setInbox rest)) := rfl
    _ = .next ((lrWrite n data (s.setInbox rest)).answer .writeDone) := rfl

/-- On an implemented slot it leaves the slot its word decodes to, and the requests behind it. -/
theorem writeSlotAsm_writes {n : SlotIndex} (hn : n.val < s.cfg.nLr) (rest : List Request) {x : Slot}
    (hx : decodeLR data = x) :
    ∃ t, step (s.setInbox (assembledRequest (writeSlotAsm n data) :: rest)) = .next t ∧
      t.lr = s.lr.set n x ∧ t.inbox = rest := by
  have himpl : (s.setInbox rest).impl n = true := (impl_iff s n).2 hn
  refine ⟨_, step_writeSlotAsm s rest n data, ?_, ?_⟩
  · simp [lrWrite_implemented _ n data himpl, hx]
  · simp

/-- The word of `setstate`: `v` with its state field replaced by the code of `st` (R89). -/
def replaceState (v : Word) (st : SlotState) : Word :=
  (v &&& ~~~0x30000000#32) ||| (st.code.setWidth 32 <<< 28)

section ReplaceState
variable (v : Word) (st : SlotState)

/-- The state field holds the new state's code. -/
theorem replaceState_state : (replaceState v st).extractLsb' 28 2 = st.code := by
  have hmask : (~~~0x30000000#32 : Word).extractLsb' 28 2 = 0#2 := by decide
  rw [replaceState, BitVec.extractLsb'_or, BitVec.extractLsb'_and, hmask, BitVec.and_zero, BitVec.zero_or,
    extractLsb'_placed_self st.code (by decide)]

/-- A field apart from the state, where the mask is all ones, is the word's. -/
theorem replaceState_field {a l : Nat} (hout : a + l ≤ 28 ∨ 28 + 2 ≤ a)
    (hmask : (~~~0x30000000#32 : Word).extractLsb' a l = BitVec.allOnes l) :
    (replaceState v st).extractLsb' a l = v.extractLsb' a l := by
  rw [replaceState, BitVec.extractLsb'_or, BitVec.extractLsb'_and, hmask, BitVec.and_allOnes,
    extractLsb'_placed_disjoint st.code hout, BitVec.or_zero]

/-- A bit apart from the state, where the mask is 1, is the word's. -/
theorem replaceState_bit {k : Nat} (hout : k < 28 ∨ 28 + 2 ≤ k) (hmask : (~~~0x30000000#32 : Word).getLsbD k = true) :
    (replaceState v st).getLsbD k = v.getLsbD k := by
  rw [replaceState, BitVec.getLsbD_or, BitVec.getLsbD_and, hmask, Bool.and_true,
    placed_getLsbD_disjoint st.code hout, Bool.or_false]

/-- The word decodes to the slot with its state replaced, and nothing else (R25, R89). -/
theorem decodeLR_replaceState : decodeLR (replaceState v st) = { decodeLR v with state := st } := by
  simp (disch := decide) only [decodeLR, replaceState_state, replaceState_field, replaceState_bit,
    SlotState.ofCode_code]

end ReplaceState

/-- Settles O8: each pseudo-request writes a word that decodes to the slot it names. -/
theorem pseudoRequestsWriteTheirSlot : Obligations.PseudoRequestsWriteTheirSlot := by
  intro s rest n vid pid pri grp st hn after
  have hstate : decodeLR (replaceState (encodeLR s.lr[n]) st) = { s.lr[n] with state := st } := by
    rw [decodeLR_replaceState, decodeLR_encodeLR]
  exact ⟨writeSlotAsm_writes hn rest (decodeLR_encodeLR _), writeSlotAsm_writes hn rest (decodeLR_encodeLR _),
    writeSlotAsm_writes hn rest (by decide), writeSlotAsm_writes hn rest hstate⟩

end Sys2Proof.Machine
end

section
/-!
The opcode table against the decoder (R84): which descriptors each row matches, and the first row that matches. They
settle O4.
-/
namespace Sys2Proof.Machine

/-! ### Which descriptors a row matches -/

/-- Equal concatenations of equal widths have equal parts. -/
theorem append_eq_append_iff {m n : Nat} {a c : BitVec m} {b d : BitVec n} : a ++ b = c ++ d ↔ a = c ∧ b = d := by
  refine ⟨fun h => ⟨?_, ?_⟩, fun ⟨hac, hbd⟩ => by rw [hac, hbd]⟩
  · rw [← BitVec.extractLsb'_append_eq_left (a := a) (b := b), h, BitVec.extractLsb'_append_eq_left]
  · rw [← BitVec.extractLsb'_append_eq_right (a := a) (b := b), h, BitVec.extractLsb'_append_eq_right]

/-- The bits of a descriptor's word offset that a register's row looks at (R84): none of an index, and none at all in
the catch-all rows. -/
def woffMask (r : Reg) : BitVec 10 :=
  match r with
  | .apr _ => 0x3FC#10
  | .lr _ => 0x3F0#10
  | .rsvd _ => 0x000#10
  | .hcr | .vtr | .vmcr | .misr | .eisr0 | .eisr1 | .elrsr0 | .elrsr1 => BitVec.allOnes 10

/-- The register that stands for a register's row: the one with index 0 (R84). -/
def rowReg (r : Reg) : Reg :=
  match r with
  | .apr _ => .apr 0
  | .lr _ => .lr 0
  | .rsvd _ => .rsvd 0
  | r => r

/-- A word offset lies where a register's row looks for it. -/
def rowCovers (woff : BitVec 10) (r : Reg) : Bool := woff &&& woffMask r == regWoff (rowReg r)

section Fits
variable {row : OpcodeRow} {desc : Descriptor}

/-- A row that looks at KIND and a register's bits of the word offset matches the descriptors of its kind whose word
offset it covers. -/
theorem fits_of_register {kind : BitVec 2} {r : Reg}
    (hpattern : row.pattern = busDesc kind 0#4 (regWoff (rowReg r)) 0#2)
    (hmask : row.mask = busDesc 3#2 0#4 (woffMask r) 0#2) :
    row.fits desc = (kindField desc == kind && rowCovers (woffField desc) r) := by
  have hkind : kindField desc &&& 3#2 = kindField desc := BitVec.and_allOnes
  have hmasked : desc &&& busDesc 3#2 0#4 (woffMask r) 0#2 =
      busDesc (kindField desc) 0#4 (woffField desc &&& woffMask r) 0#2 := by
    have hand :=
      busDesc_and (kindField desc) (sizeField desc) (woffField desc) (laneField desc) 3#2 0#4 (woffMask r) 0#2
    rwa [busDesc_fields, BitVec.and_zero, BitVec.and_zero, hkind] at hand
  rw [Bool.eq_iff_iff, Bool.and_eq_true, rowCovers, beq_iff_eq, beq_iff_eq, OpcodeRow.fits, beq_iff_eq, hpattern, hmask,
    hmasked]
  refine ⟨fun h => ⟨?_, ?_⟩, fun ⟨hk, hw⟩ => by rw [hk, hw]⟩
  · simpa using congrArg kindField h
  · simpa using congrArg woffField h

/-- A row that looks at all but SIZE, with an event's pattern, matches that event. -/
theorem fits_event_iff {code : BitVec 4} (hpattern : row.pattern = 2#2 ++ 0#4 ++ 0#8 ++ code)
    (hmask : row.mask = 0x30FFF#18) : row.fits desc = true ↔ IsEvent desc code := by
  rw [OpcodeRow.fits, beq_iff_eq, hpattern, hmask]
  refine ⟨fun h => ?_, IsEvent.and_eventMask⟩
  rw [and_eventMask] at h
  obtain ⟨hrest, hcode⟩ := (append_eq_append_iff (m := 14) (n := 4)).1 h
  obtain ⟨hrest, hzero⟩ := (append_eq_append_iff (m := 6) (n := 8)).1 hrest
  obtain ⟨hkind, -⟩ := (append_eq_append_iff (m := 2) (n := 4)).1 hrest
  exact ⟨hkind, hzero, hcode⟩

end Fits

/-! ### The table, split into events and registers -/

section Rows
variable (r : Reg) (size : BitVec 4) (lane : BitVec 2) (data : Word) (desc : Descriptor)

/-- A register's read belongs to the row of the register that stands for it. -/
theorem opcodeRow_readInstr : opcodeRow (readInstr r size lane) = opcodeRow (readInstr (rowReg r) 0 0) := by
  cases r <;> rfl

/-- A register's write belongs to the row of the register that stands for it. -/
theorem opcodeRow_writeInstr :
    opcodeRow (writeInstr r size lane data) = opcodeRow (writeInstr (rowReg r) 0 0 0) := by
  cases r <;> rfl

/-- The row of a register's read matches the bus reads it covers. -/
theorem fits_readInstr :
    (opcodeRow (readInstr r size lane)).fits desc = (kindField desc == 0#2 && rowCovers (woffField desc) r) :=
  fits_of_register (by cases r <;> simp only [rowReg] <;> rfl) (by cases r <;> simp only [woffMask] <;> rfl)

/-- The row of a register's write matches the bus writes it covers. -/
theorem fits_writeInstr :
    (opcodeRow (writeInstr r size lane data)).fits desc = (kindField desc == 1#2 && rowCovers (woffField desc) r) :=
  fits_of_register (by cases r <;> simp only [rowReg] <;> rfl) (by cases r <;> simp only [woffMask] <;> rfl)

end Rows

/-- The rows of the events. -/
def eventRows : List OpcodeRow :=
  [opcodeRow .evAck, opcodeRow (.evEoi 0), opcodeRow (.evDeact 0), opcodeRow (.evSetPws false)]

/-- The registers that stand for the bus rows, in the table's order. -/
def rowRegs : List Reg := [.hcr, .vtr, .vmcr, .misr, .eisr0, .eisr1, .elrsr0, .elrsr1, .apr 0, .lr 0, .rsvd 0]

/-- The rows of the bus requests: of each register its read, then its write. -/
def busRows : List OpcodeRow :=
  rowRegs.flatMap fun r => [opcodeRow (readInstr r 0 0), opcodeRow (writeInstr r 0 0 0)]

/-- The table is the events' rows and then the registers' rows (R84). -/
theorem opcodeTable_eq : opcodeTable = eventRows ++ busRows := rfl

/-! ### The first row that matches -/

/-- The first element of a list that meets a test, as a conditional. -/
theorem find?_cons_eq_ite {α : Type} (p : α → Bool) (a : α) (l : List α) :
    (a :: l).find? p = if p a = true then some a else l.find? p := by
  cases h : p a with
  | true => rw [List.find?_cons_of_pos h, if_pos rfl]
  | false => rw [List.find?_cons_of_neg (by simp [h]), if_neg (by decide)]

/-- A mask of the upper bits compares the upper bits. -/
theorem and_upperMask_eq_iff {m n : Nat} (x : BitVec (m + n)) (y : BitVec m) :
    x &&& (BitVec.allOnes m ++ 0#n) = y ++ 0#n ↔ x.extractLsb' n m = y := by
  have hmasked : x &&& (BitVec.allOnes m ++ 0#n) = x.extractLsb' n m ++ 0#n := by
    conv_lhs => rw [← BitVec.extractLsb'_append_extractLsb' (x := x)]
    rw [BitVec.and_append, BitVec.and_allOnes, BitVec.and_zero]
  rw [hmasked, BitVec.append_left_inj]

/-- The rows of the active-priority words look at the upper eight bits of the word offset. -/
theorem rowCovers_apr_iff (woff : BitVec 10) (n : AprIndex) :
    rowCovers woff (.apr n) = true ↔ woff.extractLsb' 2 8 = 0x0F#8 :=
  beq_iff_eq.trans (and_upperMask_eq_iff (m := 8) (n := 2) woff 0x0F#8)

/-- The rows of the list registers look at the upper six bits of the word offset. -/
theorem rowCovers_lr_iff (woff : BitVec 10) (n : SlotIndex) :
    rowCovers woff (.lr n) = true ↔ woff.extractLsb' 4 6 = 0x04#6 :=
  beq_iff_eq.trans (and_upperMask_eq_iff (m := 6) (n := 4) woff 0x04#6)

/-- The catch-all rows look at no bit of the word offset. -/
theorem rowCovers_rsvd (woff w : BitVec 10) : rowCovers woff (.rsvd w) = true := by
  simp [rowCovers, woffMask, rowReg, regWoff]

/-- The first register whose row covers a word offset stands for the row of the register at that offset (R82, R84). -/
theorem find?_rowRegs (woff : BitVec 10) : rowRegs.find? (rowCovers woff) = some (rowReg (regAt woff)) := by
  have named {r : Reg} (hmask : woffMask r = BitVec.allOnes 10) :
      rowCovers woff r = true ↔ woff = regWoff (rowReg r) := by
    rw [rowCovers, hmask, BitVec.and_allOnes, beq_iff_eq]
  simp only [rowRegs, find?_cons_eq_ite, regAt, apply_ite rowReg, apply_ite some]
  exact if_congr (named rfl) rfl <| if_congr (named rfl) rfl <| if_congr (named rfl) rfl <|
    if_congr (named rfl) rfl <| if_congr (named rfl) rfl <| if_congr (named rfl) rfl <|
    if_congr (named rfl) rfl <| if_congr (named rfl) rfl <| if_congr (rowCovers_apr_iff woff 0) rfl <|
    if_congr (rowCovers_lr_iff woff 0) rfl (if_pos (rowCovers_rsvd woff 0))

section First
variable {desc : Descriptor}

/-- Where each register's two rows match what one of them covers, the first bus row that matches is that of the register
at the word offset. -/
theorem find?_busRows_of {row : Reg → OpcodeRow}
    (hrow : ∀ r, [opcodeRow (readInstr r 0 0), opcodeRow (writeInstr r 0 0 0)].find? (·.fits desc) =
      if rowCovers (woffField desc) r = true then some (row r) else none) :
    busRows.find? (·.fits desc) = some (row (rowReg (regAt (woffField desc)))) := by
  have hguard : (fun r => [opcodeRow (readInstr r 0 0), opcodeRow (writeInstr r 0 0 0)].find? (·.fits desc)) =
      Option.map row ∘ Option.guard (rowCovers (woffField desc)) := by
    funext r
    rw [hrow, Function.comp_apply, Option.guard]
    split <;> rfl
  rw [busRows, List.find?_flatMap, hguard, ← List.map_findSome?, List.findSome?_guard, find?_rowRegs, Option.map_some]

/-- The first bus row that a bus read matches is that of the register at its word offset. -/
theorem find?_busRows_read (hkind : kindField desc = 0#2) :
    busRows.find? (·.fits desc) = some (opcodeRow (readInstr (rowReg (regAt (woffField desc))) 0 0)) := by
  refine find?_busRows_of (row := fun r => opcodeRow (readInstr r 0 0)) fun r => ?_
  simp [find?_cons_eq_ite, fits_readInstr, fits_writeInstr, hkind]

/-- The first bus row that a bus write matches is that of the register at its word offset. -/
theorem find?_busRows_write (hkind : kindField desc = 1#2) :
    busRows.find? (·.fits desc) = some (opcodeRow (writeInstr (rowReg (regAt (woffField desc))) 0 0 0)) := by
  refine find?_busRows_of (row := fun r => opcodeRow (writeInstr r 0 0 0)) fun r => ?_
  simp [find?_cons_eq_ite, fits_readInstr, fits_writeInstr, hkind]

/-- A descriptor of neither bus kind matches no bus row. -/
theorem find?_busRows_none (hread : kindField desc ≠ 0#2) (hwrite : kindField desc ≠ 1#2) :
    busRows.find? (·.fits desc) = none := by
  rw [busRows, List.find?_flatMap_eq_none_iff]
  simp [fits_readInstr, fits_writeInstr, hread, hwrite]

/-- The event row that an event matches is that of its code. -/
theorem find?_eventRows_event {code : BitVec 4} (h : IsEvent desc code) :
    eventRows.find? (·.fits desc) =
      if code = 0#4 then some (opcodeRow .evAck)
      else if code = 1#4 then some (opcodeRow (.evEoi 0))
      else if code = 2#4 then some (opcodeRow (.evDeact 0))
      else if code = 3#4 then some (opcodeRow (.evSetPws false))
      else none := by
  have hcode (c : BitVec 4) : IsEvent desc c ↔ code = c :=
    ⟨fun h' => h.code.symm.trans h'.code, fun hc => hc ▸ h⟩
  simp only [eventRows, find?_cons_eq_ite, List.find?_nil]
  exact if_congr ((fits_event_iff rfl rfl).trans (hcode _)) rfl <|
    if_congr ((fits_event_iff rfl rfl).trans (hcode _)) rfl <|
    if_congr ((fits_event_iff rfl rfl).trans (hcode _)) rfl <|
    if_congr ((fits_event_iff rfl rfl).trans (hcode _)) rfl rfl

/-- A descriptor that is none of the four events matches no event row. -/
theorem find?_eventRows_none (h : ∀ code : BitVec 4, code.toNat ≤ 3 → ¬ IsEvent desc code) :
    eventRows.find? (·.fits desc) = none := by
  simp only [eventRows, find?_cons_eq_ite, List.find?_nil]
  rw [if_neg fun hfits => h 0#4 (by decide) ((fits_event_iff rfl rfl).1 hfits),
    if_neg fun hfits => h 1#4 (by decide) ((fits_event_iff rfl rfl).1 hfits),
    if_neg fun hfits => h 2#4 (by decide) ((fits_event_iff rfl rfl).1 hfits),
    if_neg fun hfits => h 3#4 (by decide) ((fits_event_iff rfl rfl).1 hfits)]

/-- A descriptor of a kind that is not 2 is no event. -/
theorem not_isEvent_of_kind {kind : BitVec 2} (hkind : kindField desc = kind) (hne : kind ≠ 2#2) (code : BitVec 4) :
    ¬ IsEvent desc code :=
  fun h => hne (hkind.symm.trans h.kind)

end First

/-- Settles O4: a reserved descriptor matches no row, a bus request matches no event's row, and an event matches its own
before any bus row. -/
theorem decodePicksFirstMatchingOpcodeRow : Obligations.DecodePicksFirstMatchingOpcodeRow := by
  intro desc data
  rw [opcodeTable_eq, List.find?_append]
  rcases decode_cases desc data with ⟨hreserved, why, herror⟩ | ⟨i, hi⟩
  · have hread : kindField desc ≠ 0#2 := fun hkind => (StandsFor.read (data := data) hkind).not_reserved hreserved
    have hwrite : kindField desc ≠ 1#2 := fun hkind => (StandsFor.write (data := data) hkind).not_reserved hreserved
    rw [herror, find?_eventRows_none fun _ hcode hevent => hevent.not_reserved hcode hreserved,
      find?_busRows_none hread hwrite]
    rfl
  · rw [hi.decode]
    cases hi with
    | read hkind =>
      rw [find?_eventRows_none fun code _ => not_isEvent_of_kind hkind (by decide) code, find?_busRows_read hkind,
        Option.none_or, ← opcodeRow_readInstr]
    | write hkind =>
      rw [find?_eventRows_none fun code _ => not_isEvent_of_kind hkind (by decide) code, find?_busRows_write hkind,
        Option.none_or, ← opcodeRow_writeInstr]
    | ack hevent =>
      rw [find?_eventRows_event hevent]
      rfl
    | eoi hevent =>
      rw [find?_eventRows_event hevent]
      rfl
    | deact hevent =>
      rw [find?_eventRows_event hevent]
      rfl
    | setPws hevent =>
      rw [find?_eventRows_event hevent]
      rfl

end Sys2Proof.Machine
end

section
/-!
The active priorities that APR[0] records (R146-R148): a list-register write, an ACK and an EOI each replace one slot and
update APR[0] by one rule, and that rule keeps the record exact. They settle O18 and O32.
-/
namespace Sys2Proof.Machine

variable {s u : State} {i : SlotIndex} {old new : Slot} {p : Priority}

/-! ### The slots active at a priority, one slot apart -/

/-- The slot is active at priority p. -/
def Slot.ActiveAt (x : Slot) (p : Priority) : Prop := x.state.isActive = true ∧ x.pri = p

/-- Some implemented slot other than slot i is active at priority p. -/
def ActiveElsewhere (s : State) (i : SlotIndex) (p : Priority) : Prop :=
  ∃ j : SlotIndex, j ≠ i ∧ j.val < s.cfg.nLr ∧ s.lr[j].ActiveAt p

/-- An implemented slot is active at p: slot i or another. -/
theorem activeAt_iff_or (hi : i.val < s.cfg.nLr) :
    activeAt s p = true ↔ s.lr[i].ActiveAt p ∨ ActiveElsewhere s i p := by
  rw [activeAt_iff]
  constructor
  · rintro ⟨j, hj, hactive⟩
    by_cases h : j = i
    · exact .inl (h ▸ hactive)
    · exact .inr ⟨j, h, hj, hactive⟩
  · rintro (hactive | ⟨j, -, hj, hactive⟩)
    · exact ⟨i, hi, hactive⟩
    · exact ⟨j, hj, hactive⟩

/-- Replacing slot i changes no other slot. -/
theorem activeElsewhere_setSlot_iff : ActiveElsewhere (s.setSlot i new) i p ↔ ActiveElsewhere s i p := by
  refine exists_congr fun j => and_congr_right fun hj => ?_
  rw [setSlot_lr_get, if_neg hj, State.setSlot_cfg]

/-- After slot i is replaced by `new`, `new` or another slot is the one active at p. -/
theorem activeAt_setSlot_iff_or (hi : i.val < s.cfg.nLr) :
    activeAt (s.setSlot i new) p = true ↔ new.ActiveAt p ∨ ActiveElsewhere s i p := by
  have hsplit := activeAt_iff_or (s := s.setSlot i new) (p := p) hi
  rwa [setSlot_lr_get, if_pos rfl, activeElsewhere_setSlot_iff] at hsplit

/-- A slot is not active at p when it is not active or has another priority. -/
theorem Slot.not_activeAt_iff (x : Slot) : ¬x.ActiveAt p ↔ x.state.isActive = false ∨ x.pri ≠ p := by
  rw [Slot.ActiveAt, not_and_or, Bool.not_eq_true]

/-- A slot gives up p as its old priority when it was active at p and no longer is (R147). -/
theorem releases_at_iff : (releases old new = true ∧ p = old.pri) ↔ old.ActiveAt p ∧ ¬new.ActiveAt p := by
  simp only [Slot.not_activeAt_iff, releases, Bool.and_eq_true, Bool.or_eq_true, Bool.not_eq_true', bne_iff_ne]
  constructor
  · rintro ⟨⟨hold, hnew⟩, rfl⟩
    exact ⟨⟨hold, rfl⟩, hnew⟩
  · rintro ⟨⟨hold, rfl⟩, hnew⟩
    exact ⟨⟨hold, hnew⟩, rfl⟩

/-! ### The rule of the bookkeeping (R146, R147) -/

/-- APR[0] of `u` is that of `s` after a slot went from `old` to `new`: the new slot's active priority is recorded
(R146), and the old one's is released when the slot gave it up and no implemented slot is active at it (R147). -/
def AprBookkept (old new : Slot) (s u : State) : Prop :=
  ∀ p : Priority, u.apr[0].getLsbD p.toNat = true ↔
    new.ActiveAt p ∨
      (s.apr[0].getLsbD p.toNat = true ∧ ¬(old.ActiveAt p ∧ ¬new.ActiveAt p ∧ ¬activeAt u p = true))

/-- The rule keeps an exact record exact: before and after, the other slots active at a priority are the same, so the set
of active priorities changes by the old and the new slot as the rule changes the record. -/
theorem AprBookkept.aprExact (h : AprBookkept s.lr[i] new s u) (hi : i.val < s.cfg.nLr) (hcfg : u.cfg = s.cfg)
    (hlr : u.lr = s.lr.set i new) (hs : AprExact s) : AprExact u := by
  intro p
  have hbefore := activeAt_iff_or (p := p) hi
  have hafter : activeAt u p = true ↔ new.ActiveAt p ∨ ActiveElsewhere s i p := by
    rw [activeAt_congr (s.setSlot i new) hlr hcfg, activeAt_setSlot_iff_or hi]
  rw [← activeAt_iff u p, h p, hs p, ← activeAt_iff s p, hbefore, hafter]
  tauto

/-- A slot replacement follows the rule (R142). -/
theorem replaceSlot_aprBookkept : AprBookkept old new s (replaceSlot i old new s) := by
  intro p
  have hslots : activeAt (replaceSlot i old new s) p = activeAt (s.setSlot i new) p :=
    activeAt_congr (s.setSlot i new) (replaceSlot_lr ..) (replaceSlot_cfg ..) p
  rw [replaceSlot_apr_bit, hslots, ← and_assoc (a := old.ActiveAt p), ← releases_at_iff, or_comm, Slot.ActiveAt,
    eq_comm (b := p)]
  simp only [Bool.or_eq_true, Bool.and_eq_true, Bool.not_eq_true', ← Bool.not_eq_true, decide_eq_true_eq]

/-- An ACK follows the rule: the slot becomes active at the priority it has (R200). -/
theorem activateSlot_aprBookkept :
    AprBookkept s.lr[i] { s.lr[i] with state := .active } s (activateSlot i s) := by
  intro p
  have hnew : Slot.ActiveAt { s.lr[i] with state := .active } p ↔ p = s.lr[i].pri :=
    ⟨fun h => h.2.symm, fun h => ⟨rfl, h.symm⟩⟩
  have hkept : ¬(s.lr[i].ActiveAt p ∧ p ≠ s.lr[i].pri ∧ ¬activeAt (activateSlot i s) p = true) :=
    fun ⟨hold, hne, _⟩ => hne hold.2.symm
  rw [activateSlot_apr_bit, hnew, Bool.or_eq_true, decide_eq_true_eq, and_iff_left hkept, or_comm]

/-- The slot an EOI ended is not active (R202). -/
theorem endedSlot_not_isActive (x : Slot) : (endedSlot x).state.isActive = false := by
  unfold endedSlot
  split <;> rfl

/-- An EOI of an active slot follows the rule: the slot gives up its priority (R202). -/
theorem endSlot_aprBookkept (h : s.lr[i].state.isActive = true) :
    AprBookkept s.lr[i] (endedSlot s.lr[i]) s (endSlot i s) := by
  intro p
  have hnew : ¬(endedSlot s.lr[i]).ActiveAt p := fun hactive => by
    rw [Slot.ActiveAt, endedSlot_not_isActive] at hactive
    cases hactive.1
  have hold : s.lr[i].ActiveAt p ↔ p = s.lr[i].pri := ⟨fun hactive => hactive.2.symm, fun hp => ⟨h, hp.symm⟩⟩
  have hslots : activeAt (endSlot i s) p = activeAt (s.setSlot i (endedSlot s.lr[i])) p :=
    activeAt_congr (s.setSlot i (endedSlot s.lr[i])) (endSlot_lr ..) (endSlot_cfg ..) p
  rw [endSlot_apr_bit s i p h, hslots, hold, or_iff_right hnew, and_iff_right hnew]
  simp only [Bool.and_eq_true, Bool.not_eq_true', ← Bool.not_eq_true, decide_eq_true_eq]

/-! ### The invariant -/

/-- Exactness is read from APR[0], the slots and N_LR alone. -/
theorem aprExact_of_eq (hs : AprExact s) (hapr : u.apr[0] = s.apr[0]) (hlr : u.lr = s.lr) (hcfg : u.cfg = s.cfg) :
    AprExact u := by
  simpa only [AprExact, hapr, hlr, hcfg] using hs

/-- A list-register write keeps the record exact; at an unimplemented slot it is ignored (R142). -/
theorem lrWrite_aprExact (hs : AprExact s) (n : SlotIndex) (v : Word) : AprExact (lrWrite n v s) := by
  cases hn : s.impl n with
  | false => rwa [lrWrite_unimplemented s n v hn]
  | true =>
    rw [lrWrite_implemented s n v hn]
    exact replaceSlot_aprBookkept.aprExact ((impl_iff s n).1 hn) (replaceSlot_cfg ..) (replaceSlot_lr ..) hs

/-- Settles O18: each operation that changes a slot follows the rule of the bookkeeping, and of the others only a write
of APR0 changes APR[0]. -/
theorem requestsKeepAprExact : Obligations.RequestsKeepAprExact := by
  intro i s t hs h hi
  refine exec_ensures AprExact h (same := hs) (answer := fun _ _ hu => hu) (wrHcr := fun _ _ _ _ _ => hs)
    (wrVmcr := fun _ _ _ _ _ => hs) (wrApr := fun size lane n data v hw => ?wrApr)
    (wrLr := fun _ _ n _ v _ => lrWrite_aprExact hs n v) (ack := fun k _ hk => ?ack)
    (eoiUnmatched := fun _ _ => hs) (eoiMatched := fun vid k _ hk => ?eoi) (deact := fun _ _ _ => hs)
    (setPws := fun _ _ => hs)
  case wrApr =>
    have hn : 0 ≠ n := fun h0 => hi size lane data (h0 ▸ hw)
    exact aprExact_of_eq hs (aprWrite_apr_get_of_ne v hn) rfl rfl
  case ack =>
    have himpl := ((eligible_iff s k).1 (hppi_eligible s hk)).1
    exact activateSlot_aprBookkept.aprExact himpl (activateSlot_cfg ..) (activateSlot_lr ..) hs
  case eoi =>
    obtain ⟨himpl, hactive, -⟩ := eoiMatch_some s hk
    exact (endSlot_aprBookkept hactive).aprExact himpl (endSlot_cfg ..) (endSlot_lr ..) hs

/-! ### The writes that store a word -/

/-- A bus write's next state: its register's 32-bit write of the word handed over, if one is, and completion. -/
theorem exec_writeInstr_elim (r : Reg) (size : BitVec 4) (lane : BitVec 2) (data : Word) (s : State) :
    exec (writeInstr r size lane data) s = .next
      ((storedWord s.cfg.subwordMode size lane data (regWord r s)).elim (s.answer .writeDone)
        fun v => (regWrite r v s).answer .writeDone) := by
  rw [exec_writeInstr, answerWrite]
  cases storedWord s.cfg.subwordMode size lane data (regWord r s) <;> rfl

/-- A bus write of an implemented list register that hands over v replaces the slot by the fields of v (R121, R142). -/
theorem exec_wrLr_implemented {size : BitVec 4} {lane : BitVec 2} {n : SlotIndex} {data v : Word}
    (hn : n.val < s.cfg.nLr) (hword : storedWord s.cfg.subwordMode size lane data (encodeLR s.lr[n]) = some v) :
    exec (.wrLr size lane n data) s = .next ((replaceSlot n s.lr[n] (decodeLR v) s).answer .writeDone) := by
  have hread : regWord (.lr n) s = encodeLR s.lr[n] := (lrRead_eq n s).trans (if_pos hn)
  have hexec := exec_writeInstr_elim (.lr n) size lane data s
  rw [hread, hword] at hexec
  rw [← lrWrite_implemented s n v ((impl_iff s n).2 hn)]
  exact hexec

/-- Settles O32: the write is one slot replacement, whose APR[0] follows the rule of the bookkeeping. -/
theorem lrWriteReplacesSlotWithBookkeeping : Obligations.LrWriteReplacesSlotWithBookkeeping := by
  intro size lane n data v s hn hword new
  have hbits : AprBookkept s.lr[n] new s (replaceSlot n s.lr[n] new s) := replaceSlot_aprBookkept
  refine ⟨_, exec_wrLr_implemented hn hword, replaceSlot_lr .., replaceSlot_eoif .., fun p => ?_,
    replaceSlot_apr_get s n _ _, replaceSlot_pws .., replaceSlot_hcr .., replaceSlot_vmcr .., replaceSlot_cfg ..,
    replaceSlot_inbox .., rfl⟩
  have hp := hbits p
  rw [Slot.not_activeAt_iff, activeAt_iff, replaceSlot_cfg, Slot.ActiveAt, Slot.ActiveAt, and_assoc] at hp
  exact hp

/-- Settles O29: VMCR's 32-bit write stores the fields of the word handed over. -/
theorem vmcrWriteStoresItsFields : Obligations.VmcrWriteStoresItsFields := by
  intro size lane data s
  refine (exec_writeInstr_elim .vmcr size lane data s).trans ?_
  rw [regWord]
  cases storedWord s.cfg.subwordMode size lane data (vmcrWord s.vmcr) <;> rfl

/-- Settles O30: an active-priority word's 32-bit write stores the word handed over. -/
theorem aprWriteStoresItsWord : Obligations.AprWriteStoresItsWord := by
  intro size lane n data s
  refine (exec_writeInstr_elim (.apr n) size lane data s).trans ?_
  rw [regWord]
  cases storedWord s.cfg.subwordMode size lane data s.apr[n] <;> rfl

end Sys2Proof.Machine
end

section
/-!
The life of a slot and of its EOI flag (R142-R151, R202): what a list-register write, an ACK and an EOI make of each
slot, and that no other request changes one. They settle O38, O44, O49, O54 and O55.
-/
namespace Sys2Proof.Machine

variable {i : Instr} {s t : State} {j n : SlotIndex} {size : BitVec 4} {lane : BitVec 2} {data : Word} {vid : IntId}

/-! ### The states of a slot (R15) -/

/-- A slot is pending in Pending and ActiveAndPending (R15). -/
theorem SlotState.isPending_iff (st : SlotState) :
    st.isPending = true ↔ st = .pending ∨ st = .activeAndPending := by
  cases st <;> decide

/-- A slot is active in Active and ActiveAndPending (R15). -/
theorem SlotState.isActive_iff (st : SlotState) : st.isActive = true ↔ st = .active ∨ st = .activeAndPending := by
  cases st <;> decide

/-! ### A list register's read after its write (R150, R151) -/

/-- A 4-byte write of a list register is its 32-bit write (R69). -/
theorem exec_wrLr_word (lane : BitVec 2) (n : SlotIndex) (v : Word) (s : State) :
    exec (.wrLr 4#4 lane n v) s = .next ((lrWrite n v s).answer .writeDone) := rfl

/-- A 4-byte read of a list register returns its word (R65). -/
theorem exec_rdLr_word (lane : BitVec 2) (n : SlotIndex) (s : State) :
    exec (.rdLr 4#4 lane n) s = .next (s.answer (.readData (lrRead n s))) := rfl

/-- A list register reads as the stored bits of the word written to it, or as 0 where it is not implemented. -/
theorem lrRead_lrWrite (n : SlotIndex) (v : Word) (s : State) :
    lrRead n ((lrWrite n v s).answer .writeDone) = if n.val < s.cfg.nLr then v &&& 0xFF8FFFFF#32 else 0#32 := by
  by_cases hn : n.val < s.cfg.nLr
  · rw [if_pos hn]
    exact (storesBits_lr ((impl_iff s n).2 hn)).word v
  · rw [if_neg hn, lrRead_eq, State.answer_cfg, lrWrite_cfg, if_neg hn]

/-- Settles O38: the read returns the register's word, which is the stored bits of the written one. -/
theorem listRegisterReadsBackItsWrite : Obligations.ListRegisterReadsBackItsWrite := by
  intro s n v lane lane'
  refine ⟨_, exec_wrLr_word lane n v s, ?_⟩
  rw [exec_rdLr_word, lrRead_lrWrite]
  rfl

/-! ### Inactive over Inactive (R149) -/

/-- Replacing an Inactive slot by an Inactive one touches neither its EOI flag nor APR[0] (R144, R146, R147). -/
theorem replaceSlot_inactive {old new : Slot} (hold : old.state = .inactive) (hnew : new.state = .inactive) :
    replaceSlot n old new s = s.setSlot n new := by
  simp [replaceSlot, eoifOnWrite, aprRelease, releases, aprRecordOnWrite, hold, hnew, SlotState.isActive]

/-- The EOI status reads nothing of a slot (R171). -/
theorem eisr0_setSlot (x : Slot) : eisr0 (s.setSlot n x) = eisr0 s := rfl

section SameState
variable {x : Slot} (hx : x.state = s.lr[n].state)
include hx

/-- Replacing a slot by one in the same state changes no slot's state. -/
theorem setSlot_state_get (j : SlotIndex) : (s.setSlot n x).lr[j].state = s.lr[j].state := by
  rw [setSlot_lr_get]
  split
  · next hj => rw [hx, hj]
  · rfl

theorem elrsr0_setSlot : elrsr0 (s.setSlot n x) = elrsr0 s := by
  refine bitmap_congr fun j => ?_
  simp only [elrsrBit, State.setSlot_impl, setSlot_state_get hx]

theorem npBit_setSlot : npBit (s.setSlot n x) = npBit s := by
  simp only [npBit, State.setSlot_hcr, State.setSlot_impl, setSlot_state_get hx]

theorem validCount_setSlot : validCount (s.setSlot n x) = validCount s := by
  simp only [validCount, State.setSlot_impl, setSlot_state_get hx]

/-- MISR reads nothing of a slot but its state (R172-R178). -/
theorem misr_setSlot : misr (s.setSlot n x) = misr s := by
  have hu : uBit (s.setSlot n x) = uBit s := by
    simp only [uBit, State.setSlot_hcr, State.setSlot_cfg, validCount_setSlot hx]
  rw [misr, npBit_setSlot hx, hu]
  rfl

/-- Nor does the maintenance line (R180). -/
theorem maint_setSlot : maint (s.setSlot n x) = maint s := by
  rw [maint, misr_setSlot hx, State.setSlot_hcr, maint]

end SameState

/-- Settles O44: the write replaces the slot by one in the same state and does nothing else. -/
theorem inactiveOverInactiveChangesNoStatus : Obligations.InactiveOverInactiveChangesNoStatus := by
  intro s n lane v hn hold hcode
  have hnew : (decodeLR v).state = .inactive := by simp [decodeLR, hcode, SlotState.ofCode]
  have hx : (decodeLR v).state = s.lr[n].state := hnew.trans hold.symm
  have hwrite : lrWrite n v s = s.setSlot n (decodeLR v) := by
    rw [lrWrite_implemented s n v ((impl_iff s n).2 hn), replaceSlot_inactive hold hnew]
  have hexec := exec_wrLr_word lane n v s
  rw [hwrite] at hexec
  have hresult : SameStatusInputs (s.setSlot n (decodeLR v)) ((s.setSlot n (decodeLR v)).answer .writeDone) := by
    constructor <;> rfl
  exact ⟨_, hexec, rfl, hresult.elrsr0_eq.trans (elrsr0_setSlot hx), hresult.eisr0_eq.trans (eisr0_setSlot _),
    hresult.misr_eq.trans (misr_setSlot hx), (hresult.maint_eq rfl).trans (maint_setSlot hx), rfl, rfl⟩

/-! ### What ends a slot: a matched EOI (R202) -/

/-- The bits of APR[0] after an EOI of an active slot: its priority's bit stays only where an implemented slot is still
active at it (R147). -/
theorem endSlot_apr_bit_iff (h : s.lr[n].state.isActive = true) (p : Priority) :
    (endSlot n s).apr[0].getLsbD p.toNat = true ↔ s.apr[0].getLsbD p.toNat = true ∧
      (p = s.lr[n].pri → ∃ j : SlotIndex, j.val < s.cfg.nLr ∧ (endSlot n s).lr[j].state.isActive = true ∧
        (endSlot n s).lr[j].pri = p) := by
  have hslots : activeAt (endSlot n s) p = activeAt (s.setSlot n (endedSlot s.lr[n])) p :=
    activeAt_congr (s.setSlot n (endedSlot s.lr[n])) (endSlot_lr ..) (endSlot_cfg ..) p
  have hactive := activeAt_iff (endSlot n s) p
  rw [endSlot_cfg] at hactive
  rw [endSlot_apr_bit s n p h, ← hslots, ← hactive]
  simp only [Bool.and_eq_true, Bool.not_eq_true', Bool.and_eq_false_imp, decide_eq_true_eq, Bool.not_eq_false']

/-- Settles O49: the frame of `endSlot`, field by field. -/
theorem eoiEndsItsMatchedSlot : Obligations.EoiEndsItsMatchedSlot := by
  intro vid s k hk
  obtain ⟨-, hactive, -⟩ := eoiMatch_some s hk
  exact ⟨_, execEvEoi_some s vid hk, endSlot_lr .., endSlot_eoif .., endSlot_apr_bit_iff hactive,
    endSlot_apr_get s k, endSlot_pws .., endSlot_hcr .., endSlot_vmcr .., endSlot_cfg .., endSlot_inbox .., rfl⟩

/-! ### What each request makes of one slot and its EOI flag (R143, R145) -/

/-- Slot j and its EOI flag are the same. -/
def SameSlot (j : SlotIndex) (s t : State) : Prop := t.lr[j] = s.lr[j] ∧ t.eoif[j] = s.eoif[j]

/-- The slots after a slot replacement (R142). -/
theorem replaceSlot_lr_get (old new : Slot) (k : SlotIndex) :
    (replaceSlot n old new s).lr[k] = if k = n then new else s.lr[k] := by
  rw [replaceSlot_lr, ← State.setSlot_lr, setSlot_lr_get]

/-- Each EOI flag after a slot replacement (R144). -/
theorem replaceSlot_eoif_get_eq (old new : Slot) (k : SlotIndex) :
    (replaceSlot n old new s).eoif[k] =
      if k = n then (if old.state = .inactive ∧ new.state = .inactive then s.eoif[k] else false) else s.eoif[k] := by
  rw [replaceSlot_eoif]
  split
  · exact (ite_self _).symm
  · rw [← State.setEoif_eoif, setEoif_eoif_get]

/-- A replacement of another slot leaves slot j and its EOI flag alone. -/
theorem replaceSlot_sameSlot {old new : Slot} (hne : n ≠ j) : SameSlot j s (replaceSlot n old new s) := by
  rw [SameSlot, replaceSlot_lr_get, replaceSlot_eoif_get_eq, if_neg hne.symm, if_neg hne.symm]
  exact ⟨rfl, rfl⟩

/-- A list-register write is, at slot j: of this implemented slot and replaces it; or of this implemented slot and hands
over no word; or of another or an unimplemented one. -/
theorem exec_wrLr_cases (h : exec (.wrLr size lane n data) s = .next t) (j : SlotIndex) :
    ((n = j ∧ j.val < s.cfg.nLr) ∧ ∃ v, storedWord s.cfg.subwordMode size lane data (encodeLR s.lr[j]) = some v ∧
      t = (replaceSlot j s.lr[j] (decodeLR v) s).answer .writeDone) ∨
    ((n = j ∧ j.val < s.cfg.nLr) ∧ storedWord s.cfg.subwordMode size lane data (encodeLR s.lr[j]) = none ∧
      SameSlot j s t) ∨
    (¬(n = j ∧ j.val < s.cfg.nLr) ∧ SameSlot j s t) := by
  by_cases hn : n.val < s.cfg.nLr
  · cases hword : storedWord s.cfg.subwordMode size lane data (encodeLR s.lr[n]) with
    | none =>
      have hexec := exec_writeInstr_elim (.lr n) size lane data s
      rw [storedWord_none_of_none hword] at hexec
      cases hexec.symm.trans h
      by_cases hj : n = j
      · subst hj
        exact .inr (.inl ⟨⟨rfl, hn⟩, hword, rfl, rfl⟩)
      · exact .inr (.inr ⟨fun hboth => hj hboth.1, rfl, rfl⟩)
    | some v =>
      cases (exec_wrLr_implemented hn hword).symm.trans h
      by_cases hj : n = j
      · subst hj
        exact .inl ⟨⟨rfl, hn⟩, v, hword, rfl⟩
      · exact .inr (.inr ⟨fun hboth => hj hboth.1, replaceSlot_sameSlot hj⟩)
  · have hexec := (unimplementedLrIsZeroAndIgnoresWrites size lane n data s).2 (.inl (Nat.le_of_not_lt hn))
    cases hexec.symm.trans h
    refine .inr (.inr ⟨?_, rfl, rfl⟩)
    rintro ⟨rfl, hj⟩
    exact hn hj

/-- Changing slot k by `f` changes slot j by `f` where it is slot k. -/
theorem setSlot_map_get (f : Slot → Slot) (k j : SlotIndex) :
    (s.setSlot k (f s.lr[k])).lr[j] = if some k = some j then f s.lr[j] else s.lr[j] := by
  rw [setSlot_lr_get]
  by_cases hj : j = k
  · rw [if_pos hj, if_pos (congrArg some hj.symm), hj]
  · rw [if_neg hj, if_neg fun hkj => hj (Option.some.inj hkj).symm]

/-- An ACK changes HPPI's slot alone (R200). -/
theorem exec_evAck_lr_get (h : exec .evAck s = .next t) (j : SlotIndex) :
    t.lr[j] = if hppi s = some j then { s.lr[j] with state := .active } else s.lr[j] := by
  cases hk : hppi s with
  | none =>
    cases (execEvAck_none s hk).symm.trans h
    rfl
  | some k =>
    cases (execEvAck_some s hk).symm.trans h
    exact setSlot_map_get (fun x => { x with state := .active }) k j

/-- An EOI changes its matched slot alone (R202). -/
theorem exec_evEoi_lr_get (h : exec (.evEoi vid) s = .next t) (j : SlotIndex) :
    t.lr[j] = if eoiMatch vid s = some j then endedSlot s.lr[j] else s.lr[j] := by
  cases hk : eoiMatch vid s with
  | none =>
    cases (execEvEoi_none s vid hk).symm.trans h
    rfl
  | some k =>
    cases (execEvEoi_some s vid hk).symm.trans h
    rw [State.answer_lr, endSlot_lr]
    exact setSlot_map_get endedSlot k j

/-- Each EOI flag after an EOI of slot n (R202). -/
theorem endSlot_eoif_get (n j : SlotIndex) :
    (endSlot n s).eoif[j] = if j = n ∧ s.lr[n].hw = true then true else s.eoif[j] := by
  rw [endSlot_eoif]
  by_cases hhw : s.lr[n].hw = true
  · rw [if_pos hhw, ← State.setEoif_eoif, setEoif_eoif_get]
    exact if_congr (and_iff_left hhw).symm rfl rfl
  · rw [if_neg hhw, if_neg fun hboth => hhw hboth.2]

/-- An EOI sets the flag of its matched slot where it is hardware-backed, and changes no other (R202). -/
theorem exec_evEoi_eoif_get (h : exec (.evEoi vid) s = .next t) (j : SlotIndex) :
    t.eoif[j] = if eoiMatch vid s = some j ∧ s.lr[j].hw = true then true else s.eoif[j] := by
  cases hk : eoiMatch vid s with
  | none =>
    cases (execEvEoi_none s vid hk).symm.trans h
    exact (if_neg nofun).symm
  | some k =>
    cases (execEvEoi_some s vid hk).symm.trans h
    rw [State.answer_eoif, endSlot_eoif_get]
    refine if_congr ⟨?_, ?_⟩ rfl rfl <;>
      · rintro ⟨⟨⟩, hhw⟩
        exact ⟨rfl, hhw⟩

/-- A DEACT_DONE clears the flag of its implemented slot and changes no other (R204). -/
theorem exec_evDeact_eoif_get (h : exec (.evDeact n) s = .next t) (j : SlotIndex) :
    t.eoif[j] = if n = j ∧ j.val < s.cfg.nLr then false else s.eoif[j] := by
  cases h
  rw [State.answer_eoif]
  by_cases hn : s.impl n = true
  · rw [if_pos hn, setEoif_eoif_get]
    refine if_congr ⟨?_, fun hboth => hboth.1.symm⟩ rfl rfl
    rintro rfl
    exact ⟨rfl, (impl_iff s j).1 hn⟩
  · rw [if_neg hn, if_neg]
    rintro ⟨rfl, hj⟩
    exact hn ((impl_iff s n).2 hj)

/-- Only a list-register write, an ACK or an EOI changes the slots (R143). -/
theorem exec_lr (h : exec i s = .next t) (hlr : ∀ size lane n data, i ≠ .wrLr size lane n data) (hack : i ≠ .evAck)
    (heoi : ∀ vid, i ≠ .evEoi vid) : t.lr = s.lr :=
  exec_ensures (·.lr = s.lr) h (same := rfl) (answer := fun _ _ hu => hu)
    (wrHcr := fun _ _ _ _ _ => rfl) (wrVmcr := fun _ _ _ _ _ => rfl) (wrApr := fun _ _ _ _ _ _ => rfl)
    (wrLr := fun _ _ _ _ _ hw => absurd hw (hlr _ _ _ _)) (ack := fun _ hw _ => absurd hw hack)
    (eoiUnmatched := fun _ _ => rfl) (eoiMatched := fun vid _ hw _ => absurd hw (heoi vid))
    (deact := fun _ _ _ => rfl) (setPws := fun _ _ => rfl)

/-- Only a list-register write, an EOI or a DEACT_DONE changes the EOI flags (R145). -/
theorem exec_eoif (h : exec i s = .next t) (hlr : ∀ size lane n data, i ≠ .wrLr size lane n data)
    (heoi : ∀ vid, i ≠ .evEoi vid) (hdeact : ∀ k, i ≠ .evDeact k) : t.eoif = s.eoif :=
  exec_ensures (·.eoif = s.eoif) h (same := rfl) (answer := fun _ _ hu => hu)
    (wrHcr := fun _ _ _ _ _ => rfl) (wrVmcr := fun _ _ _ _ _ => rfl) (wrApr := fun _ _ _ _ _ _ => rfl)
    (wrLr := fun _ _ _ _ _ hw => absurd hw (hlr _ _ _ _)) (ack := fun k _ _ => activateSlot_eoif s k)
    (eoiUnmatched := fun _ _ => rfl) (eoiMatched := fun vid _ hw _ => absurd hw (heoi vid))
    (deact := fun k hw _ => absurd hw (hdeact k)) (setPws := fun _ _ => rfl)

/-- Settles O54: the write, the ACK and the EOI slot by slot; an ACK takes a pending slot and an EOI an active one. -/
theorem slotsChangeOnlyAsTheFsmLists : Obligations.SlotsChangeOnlyAsTheFsmLists := by
  intro i s t j h
  cases i with
  | wrLr size lane n data =>
    dsimp only
    rcases exec_wrLr_cases h j with ⟨hj, v, hword, rfl⟩ | ⟨hj, hword, hsame, -⟩ | ⟨hj, hsame, -⟩
    · rw [if_pos hj, hword, State.answer_lr, replaceSlot_lr_get, if_pos rfl]
    · rw [if_pos hj, hword, hsame]
    · rw [if_neg hj, hsame]
  | evAck =>
    rw [exec_evAck_lr_get h]
    refine if_congr (iff_self_and.2 fun hk => ?_) rfl rfl
    obtain ⟨-, hpending, -⟩ := (eligible_iff s j).1 (hppi_eligible s hk)
    exact (SlotState.isPending_iff _).1 hpending
  | evEoi vid =>
    rw [exec_evEoi_lr_get h]
    by_cases hk : eoiMatch vid s = some j
    · obtain ⟨-, hactive, -⟩ := eoiMatch_some s hk
      rcases (SlotState.isActive_iff _).1 hactive with hstate | hstate <;>
        simp only [endedSlot, hk, hstate, true_and, if_true, reduceCtorEq, if_false]
    · simp only [hk, false_and, if_false]
  | _ => rw [exec_lr h nofun nofun nofun]

/-- Settles O55: the write, the EOI and the DEACT_DONE flag by flag; no other request changes a flag. -/
theorem eoiFlagsChangeOnlyByTheirCauses : Obligations.EoiFlagsChangeOnlyByTheirCauses := by
  intro i s t j h
  cases i with
  | wrLr size lane n data =>
    dsimp only
    rcases exec_wrLr_cases h j with ⟨hj, v, hword, rfl⟩ | ⟨hj, hword, -, hsame⟩ | ⟨hj, -, hsame⟩
    · rw [if_pos hj, hword, State.answer_eoif, replaceSlot_eoif_get_eq, if_pos rfl]
    · rw [if_pos hj, hword, hsame]
    · rw [if_neg hj, hsame]
  | evEoi vid => exact exec_evEoi_eoif_get h j
  | evDeact k => exact exec_evDeact_eoif_get h j
  | _ => rw [exec_eoif h nofun nofun nofun]

end Sys2Proof.Machine
end

section
/-!
The maintenance status, bit by bit (R170-R180): which slots a status bitmap shows, which condition each bit of MISR shows,
and when the maintenance line is asserted. They settle O40, O41, O42 and O53.
-/
namespace Sys2Proof.Machine

variable (s : State)

/-- A word is nonzero exactly when one of its bits is 1. -/
theorem ne_zero_iff_exists_getLsbD (v : Word) : v ≠ 0#32 ↔ ∃ k, v.getLsbD k = true := by
  constructor
  · exact fun hv => ⟨_, BitVec.getLsbD_true_ctz_of_ne_zero hv⟩
  · rintro ⟨k, hk⟩ rfl
    rw [BitVec.getLsbD_zero] at hk
    cases hk

/-! ### The slot bitmaps (R170, R171, R179) -/

/-- The bits of a bitmap that are 1 are those of the slots that satisfy its test. -/
theorem bitmap_bit_iff (f : SlotIndex → Bool) (k : Nat) :
    (bitmap f).getLsbD k = true ↔ ∃ h : k < 16, f ⟨k, h⟩ = true := by
  rw [bitmap_getLsbD]
  split
  · next hk => exact ⟨fun hf => ⟨hk, hf⟩, fun ⟨_, hf⟩ => hf⟩
  · next hk => exact iff_of_false Bool.false_ne_true fun ⟨h, _⟩ => hk h

/-- A bitmap is nonzero exactly when some slot satisfies its test. -/
theorem bitmap_ne_zero_iff (f : SlotIndex → Bool) : bitmap f ≠ 0#32 ↔ ∃ i, f i = true := by
  simp only [ne_zero_iff_exists_getLsbD, bitmap_bit_iff, Fin.exists_iff]

theorem elrsrBit_iff (i : SlotIndex) :
    elrsrBit s i = true ↔ i.val < s.cfg.nLr ∧ s.lr[i].state = .inactive := by
  rw [elrsrBit, Bool.and_eq_true, impl_iff, beq_iff_eq]

theorem eisrBit_iff (i : SlotIndex) : eisrBit s i = true ↔ i.val < s.cfg.nLr ∧ s.eoif[i] = true := by
  rw [eisrBit, Bool.and_eq_true, impl_iff]

/-- Settles O41: each bitmap shows the slots that satisfy its test. -/
theorem slotStatusBitmaps : Obligations.SlotStatusBitmaps := by
  intro s k
  refine ⟨?_, ?_, rfl, rfl⟩
  · rw [elrsr0, bitmap_bit_iff]
    exact exists_congr fun h => elrsrBit_iff s ⟨k, h⟩
  · rw [eisr0, bitmap_bit_iff]
    exact exists_congr fun h => eisrBit_iff s ⟨k, h⟩

/-! ### The conditions that look at every slot (R172-R174) -/

theorem eoiBit_iff : eoiBit s = true ↔ ∃ i : SlotIndex, i.val < s.cfg.nLr ∧ s.eoif[i] = true := by
  rw [eoiBit, bne_iff_ne, eisr0, bitmap_ne_zero_iff]
  exact exists_congr (eisrBit_iff s)

theorem npBit_iff : npBit s = true ↔ s.hcr.npie = true ∧
    ¬∃ i : SlotIndex, i.val < s.cfg.nLr ∧ (s.lr[i].state = .pending ∨ s.lr[i].state = .activeAndPending) := by
  simp only [npBit, Bool.and_eq_true, Bool.not_eq_true', ← Bool.not_eq_true, any_slot_iff, impl_iff,
    SlotState.isPending_iff]

/-- The slots the count finds are a finite set's. -/
theorem countP_slots_eq_card (f : SlotIndex → Bool) :
    (List.finRange 16).countP f = (Finset.univ.filter fun i => f i = true).card := by
  rw [← List.toFinset_finRange, (List.nodup_finRange 16).card_eq_countP]
  simp only [Bool.decide_eq_true]

/-- `ValidCount` is the size of the set of implemented slots that are not Inactive (R174). -/
theorem validCount_eq_card : validCount s =
    (Finset.univ.filter fun i : SlotIndex => i.val < s.cfg.nLr ∧ s.lr[i].state ≠ .inactive).card := by
  rw [validCount, countP_slots_eq_card]
  simp only [Bool.and_eq_true, impl_iff, bne_iff_ne]

theorem uBit_iff : uBit s = true ↔ s.hcr.uie = true ∧
    (Finset.univ.filter fun i : SlotIndex => i.val < s.cfg.nLr ∧ s.lr[i].state ≠ .inactive).card <
      s.cfg.underflowLwm.val := by
  rw [uBit, Bool.and_eq_true, decide_eq_true_eq, validCount_eq_card]

/-! ### The conditions on one level (R175-R177) -/

theorem lrenpBit_iff : lrenpBit s = true ↔ s.hcr.lrenpie = true ∧ s.pws = true := by
  rw [lrenpBit, Bool.and_eq_true]

theorem vgrp0eBit_iff : vgrp0eBit s = true ↔ s.hcr.vgrp0eie = true ∧ s.vmcr.veng0 = true := by
  rw [vgrp0eBit, Bool.and_eq_true]

theorem vgrp0dBit_iff : vgrp0dBit s = true ↔ s.hcr.vgrp0die = true ∧ s.vmcr.veng0 = false := by
  rw [vgrp0dBit, Bool.and_eq_true, Bool.not_eq_true']

theorem vgrp1eBit_iff : vgrp1eBit s = true ↔ s.hcr.vgrp1eie = true ∧ s.vmcr.veng1 = true := by
  rw [vgrp1eBit, Bool.and_eq_true]

theorem vgrp1dBit_iff : vgrp1dBit s = true ↔ s.hcr.vgrp1die = true ∧ s.vmcr.veng1 = false := by
  rw [vgrp1dBit, Bool.and_eq_true, Bool.not_eq_true']

/-! ### The bits of MISR (R178) -/

/-- The condition MISR shows in bit k; bits [31:8] show none. -/
def misrCondition (s : State) (k : Nat) : Bool :=
  match k with
  | 0 => eoiBit s
  | 1 => uBit s
  | 2 => lrenpBit s
  | 3 => npBit s
  | 4 => vgrp0eBit s
  | 5 => vgrp0dBit s
  | 6 => vgrp1eBit s
  | 7 => vgrp1dBit s
  | _ + 8 => false

/-- Each bit of MISR is its condition: every other term of the word is 0 there (R178). -/
theorem misr_getLsbD (k : Nat) : (misr s).getLsbD k = misrCondition s k := by
  simp only [misr, BitVec.getLsbD_or, bitAt_getLsbD]
  rcases k with _ | _ | _ | _ | _ | _ | _ | _ | k <;> simp [misrCondition]

/-- Bits [31:8] of MISR are 0 (R178). -/
theorem misr_getLsbD_of_le {k : Nat} (hk : 8 ≤ k) : (misr s).getLsbD k = false := by
  obtain ⟨j, rfl⟩ := Nat.exists_eq_add_of_le' hk
  exact misr_getLsbD s (j + 8)

/-- Settles O40: each bit is its condition, and each condition reads as the spec states it. -/
theorem misrBitsAreTheirConditions : Obligations.MisrBitsAreTheirConditions := by
  intro s
  have hbit := misr_getLsbD s
  refine ⟨?eoi, ?u, ?lrenp, ?np, ?vgrp0e, ?vgrp0d, ?vgrp1e, ?vgrp1d, fun k => misr_getLsbD_of_le s⟩
  case eoi => exact hbit 0 ▸ eoiBit_iff s
  case u => exact hbit 1 ▸ uBit_iff s
  case lrenp => exact hbit 2 ▸ lrenpBit_iff s
  case np => exact hbit 3 ▸ npBit_iff s
  case vgrp0e => exact hbit 4 ▸ vgrp0eBit_iff s
  case vgrp0d => exact hbit 5 ▸ vgrp0dBit_iff s
  case vgrp1e => exact hbit 6 ▸ vgrp1eBit_iff s
  case vgrp1d => exact hbit 7 ▸ vgrp1dBit_iff s

/-- Settles O42: MISR is nonzero exactly when a bit of it is 1, and no bit above bit 7 is. -/
theorem maintenanceLineIsEnabledOrOfConditions : Obligations.MaintenanceLineIsEnabledOrOfConditions := by
  intro s
  rw [maint, Bool.and_eq_true, bne_iff_ne, ne_zero_iff_exists_getLsbD]
  refine and_congr_right fun _ => exists_congr fun k => (and_iff_right_of_imp fun hk => ?_).symm
  by_contra hhigh
  rw [misr_getLsbD_of_le s (Nat.le_of_not_lt hhigh)] at hk
  cases hk

/-! ### The pending-without-slot input (R175, R206) -/

/-- A SET_PWS sets the latch and completes (R206). -/
theorem exec_evSetPws (b : Bool) : exec (.evSetPws b) s = .next ((s.setPws b).answer .eventDone) := rfl

/-- Settles O53: the latch is what bit 2 of MISR shows, behind its enable. -/
theorem setPwsSetsTheLatch : Obligations.SetPwsSetsTheLatch :=
  fun b s => ⟨_, exec_evSetPws s b, rfl, misr_getLsbD _ 2⟩

end Sys2Proof.Machine
end

section
/-!
The highest-priority eligible slot (R190, R191): the fold over the slots keeps the eligible slot of least rank among
those met so far, where a slot ranks by its priority value and then its index. They settle O45.
-/
namespace Sys2Proof.Machine

variable (s : State)

/-! ### Eligibility as the spec states it (R190) -/

/-- A group is enabled by its own bit of VMCR. -/
theorem groupEnabled_iff (m : Vmcr) (g : Group) :
    groupEnabled m g = true ↔ (g = .group0 ∧ m.veng0 = true) ∨ (g = .group1 ∧ m.veng1 = true) := by
  cases g <;> simp [groupEnabled]

/-- The four conditions of eligibility, the state and the group spelt out. -/
theorem eligible_iff_stated (i : SlotIndex) :
    eligible s i = true ↔ i.val < s.cfg.nLr ∧ (s.lr[i].state = .pending ∨ s.lr[i].state = .activeAndPending) ∧
      ((s.lr[i].grp = .group0 ∧ s.vmcr.veng0 = true) ∨ (s.lr[i].grp = .group1 ∧ s.vmcr.veng1 = true)) ∧
      s.lr[i].pri.toNat < s.vmcr.vpmr.toNat := by
  rw [eligible_iff, SlotState.isPending_iff, groupEnabled_iff]

/-! ### The rank of a slot (R191) -/

/-- What HPPI minimises: the priority value, then the index. -/
def slotRank (i : SlotIndex) : ℕ ×ₗ SlotIndex := toLex (s.lr[i].pri.toNat, i)

theorem slotRank_le_iff (i j : SlotIndex) :
    slotRank s i ≤ slotRank s j ↔
      s.lr[i].pri.toNat < s.lr[j].pri.toNat ∨ (s.lr[i].pri = s.lr[j].pri ∧ i ≤ j) := by
  rw [slotRank, slotRank, Prod.Lex.toLex_le_toLex, priority_toNat_eq_iff]

/-- No two slots have the same rank. -/
theorem slotRank_injective : Function.Injective (slotRank s) := fun _ _ h => congrArg (fun r => (ofLex r).2) h

/-- A slot outranks a slot of a lower index exactly when its priority value is lower. -/
theorem slotRank_lt_iff_of_lt {b i : SlotIndex} (hbi : b < i) :
    slotRank s i < slotRank s b ↔ s.lr[i].pri < s.lr[b].pri := by
  rw [slotRank, slotRank, Prod.Lex.toLex_lt_toLex, BitVec.lt_def]
  exact or_iff_left fun h => hbi.asymm h.2

/-! ### One step of the fold, case by case (R191) -/

theorem betterSlot_of_not_eligible (best : Option SlotIndex) {i : SlotIndex} (hi : ¬eligible s i = true) :
    betterSlot s best i = best := if_neg hi

theorem betterSlot_none {i : SlotIndex} (hi : eligible s i = true) : betterSlot s none i = some i := if_pos hi

/-- An eligible slot of a higher index replaces the best so far exactly when it outranks it. -/
theorem betterSlot_of_lt {b i : SlotIndex} (hi : eligible s i = true) (hbi : b < i) :
    betterSlot s (some b) i = if slotRank s i < slotRank s b then some i else some b := by
  simp only [betterSlot, hi, if_true, slotRank_lt_iff_of_lt s hbi]

/-! ### What the fold over the slots keeps (R191) -/

/-- `best` is the eligible slot of least rank in `l`, or none and no slot of `l` is eligible. -/
def IsBest (l : List SlotIndex) : Option SlotIndex → Prop
  | none => ∀ j ∈ l, ¬eligible s j = true
  | some i => i ∈ l ∧ eligible s i = true ∧ ∀ j ∈ l, eligible s j = true → slotRank s i ≤ slotRank s j

section Step
variable {s} {l : List SlotIndex} {i : SlotIndex}

/-- A slot that is not eligible leaves the best as it is. -/
theorem IsBest.append_not_eligible {best : Option SlotIndex} (h : IsBest s l best) (hi : ¬eligible s i = true) :
    IsBest s (l ++ [i]) best := by
  cases best with
  | none => exact List.forall_mem_append.2 ⟨h, List.forall_mem_singleton.2 hi⟩
  | some b =>
    obtain ⟨hmem, helig, hleast⟩ := h
    exact ⟨List.mem_append_left _ hmem, helig,
      List.forall_mem_append.2 ⟨hleast, List.forall_mem_singleton.2 fun h => absurd h hi⟩⟩

/-- A best slot that ranks no higher than the slot just met stays the best. -/
theorem IsBest.append_of_le {b : SlotIndex} (h : IsBest s l (some b)) (hle : slotRank s b ≤ slotRank s i) :
    IsBest s (l ++ [i]) (some b) := by
  obtain ⟨hmem, helig, hleast⟩ := h
  exact ⟨List.mem_append_left _ hmem, helig,
    List.forall_mem_append.2 ⟨hleast, List.forall_mem_singleton.2 fun _ => hle⟩⟩

/-- An eligible slot that ranks no higher than every eligible slot before it is the best. -/
theorem isBest_append_self (hi : eligible s i = true)
    (hle : ∀ j ∈ l, eligible s j = true → slotRank s i ≤ slotRank s j) : IsBest s (l ++ [i]) (some i) :=
  ⟨List.mem_append_right _ List.mem_cons_self, hi,
    List.forall_mem_append.2 ⟨hle, List.forall_mem_singleton.2 fun _ => le_rfl⟩⟩

/-- Meeting a slot of a higher index than all before it, the fold still holds the best: its index puts the new
slot behind the best so far where their priorities tie. -/
theorem isBest_betterSlot {best : Option SlotIndex} (h : IsBest s l best) (hlt : ∀ j ∈ l, j < i) :
    IsBest s (l ++ [i]) (betterSlot s best i) := by
  by_cases hi : eligible s i = true
  case neg =>
    rw [betterSlot_of_not_eligible s best hi]
    exact h.append_not_eligible hi
  cases best with
  | none =>
    rw [betterSlot_none s hi]
    exact isBest_append_self hi fun j hj helig => absurd helig (h j hj)
  | some b =>
    have ⟨hmem, _, hleast⟩ := h
    rw [betterSlot_of_lt s hi (hlt b hmem)]
    split
    · next hrank => exact isBest_append_self hi fun j hj helig => hrank.le.trans (hleast j hj helig)
    · next hrank => exact h.append_of_le (not_lt.1 hrank)

end Step

/-- Over slots of increasing index the fold finds the best. -/
theorem isBest_foldl (l : List SlotIndex) (hl : l.Pairwise (· < ·)) : IsBest s l (l.foldl (betterSlot s) none) := by
  induction l using List.reverseRecOn with
  | nil => exact fun _ hj => absurd hj List.not_mem_nil
  | append_singleton l i ih =>
    obtain ⟨hinit, -, hlt⟩ := List.pairwise_append.1 hl
    rw [List.foldl_concat]
    exact isBest_betterSlot (ih hinit) fun j hj => hlt j hj i List.mem_cons_self

/-! ### HPPI (R191) -/

/-- HPPI is the best of the 16 slots. -/
theorem isBest_hppi : IsBest s (List.finRange 16) (hppi s) := isBest_foldl s _ (List.pairwise_lt_finRange 16)

theorem hppi_eq_none_iff : hppi s = none ↔ ∀ i, ¬eligible s i = true := by
  have hbest := isBest_hppi s
  constructor
  · intro h i
    rw [h] at hbest
    exact hbest i (List.mem_finRange i)
  · exact fun h => Option.eq_none_iff_forall_ne_some.2 fun k hk => h k (hppi_eligible s hk)

theorem hppi_eq_some_iff (i : SlotIndex) :
    hppi s = some i ↔ eligible s i = true ∧ ∀ j, eligible s j = true → slotRank s i ≤ slotRank s j := by
  have hleast {k : SlotIndex} (hk : hppi s = some k) :
      eligible s k = true ∧ ∀ j, eligible s j = true → slotRank s k ≤ slotRank s j := by
    have hbest := isBest_hppi s
    rw [hk] at hbest
    obtain ⟨-, helig, hle⟩ := hbest
    exact ⟨helig, fun j => hle j (List.mem_finRange j)⟩
  refine ⟨hleast, fun ⟨helig, hle⟩ => ?_⟩
  obtain ⟨k, hk⟩ := Option.ne_none_iff_exists'.1 fun hnone => (hppi_eq_none_iff s).1 hnone i helig
  obtain ⟨hkelig, hkle⟩ := hleast hk
  rw [hk, slotRank_injective s ((hkle i helig).antisymm (hle k hkelig))]

/-- Settles O45: HPPI is the eligible slot of least rank, with eligibility and rank as the spec states them. -/
theorem hppiIsTheLeastEligibleSlot : Obligations.HppiIsTheLeastEligibleSlot := by
  intro s
  simp only [← eligible_iff_stated, ← slotRank_le_iff]
  exact ⟨hppi_eq_none_iff s, hppi_eq_some_iff s⟩

end Sys2Proof.Machine
end

section
/-!
The input events (R200-R206): what an ACK, an EOI and a DEACT_DONE answer, what each does to the slot status, and what no
event changes. They settle O24, O46, O47, O48, O50, O51, O52 and O58.
-/
namespace Sys2Proof.Machine

variable {i : Instr} {s t : State} {j n : SlotIndex} {vid : IntId}

/-! ### What the slot status reads of a slot's state (R170-R174) -/

/-- The empty-list status reads of a slot's state only whether it is Inactive (R170). -/
theorem elrsr0_eq_of_inactive_iff (hcfg : t.cfg = s.cfg)
    (hstate : ∀ j : SlotIndex, t.lr[j].state = .inactive ↔ s.lr[j].state = .inactive) : elrsr0 t = elrsr0 s := by
  refine bitmap_congr fun j => ?_
  rw [Bool.eq_iff_iff, elrsrBit_iff, elrsrBit_iff, hcfg, hstate]

/-- So does the count of valid slots (R174). -/
theorem validCount_eq_of_inactive_iff (hcfg : t.cfg = s.cfg)
    (hstate : ∀ j : SlotIndex, t.lr[j].state = .inactive ↔ s.lr[j].state = .inactive) :
    validCount t = validCount s := by
  simp only [validCount_eq_card, hcfg, ne_eq, hstate]

/-- The no-pending summary reads of a slot's state only whether it is pending (R172). -/
theorem npBit_eq_of_isPending_eq (hcfg : t.cfg = s.cfg) (hnpie : t.hcr.npie = s.hcr.npie)
    (hstate : ∀ j : SlotIndex, t.lr[j].state.isPending = s.lr[j].state.isPending) : npBit t = npBit s := by
  simp only [npBit, State.impl, hcfg, hnpie, hstate]

theorem elrsr0_slot_bit_iff (j : SlotIndex) :
    (elrsr0 s).getLsbD j.val = true ↔ j.val < s.cfg.nLr ∧ s.lr[j].state = .inactive := by
  rw [elrsr0, bitmap_bit_iff, exists_prop_of_true j.isLt, elrsrBit_iff]

theorem eisr0_slot_bit_iff (j : SlotIndex) :
    (eisr0 s).getLsbD j.val = true ↔ j.val < s.cfg.nLr ∧ s.eoif[j] = true := by
  rw [eisr0, bitmap_bit_iff, exists_prop_of_true j.isLt, eisrBit_iff]

/-- An implemented slot with its EOI flag set raises MISR.EOI (R173, R178). -/
theorem misr_eoi_of_eoif (hj : j.val < s.cfg.nLr) (hflag : s.eoif[j] = true) : (misr s).getLsbD 0 = true :=
  (misr_getLsbD s 0).trans ((eoiBit_iff s).2 ⟨j, hj, hflag⟩)

/-! ### Every request (R205, R222) -/

/-- Settles O24: read, write or event, the request's meaning answers a next state. -/
theorem everyDecodedRequestCompletes : Obligations.EveryDecodedRequestCompletes :=
  exec_completes

/-- No instruction changes the configuration (R244). -/
theorem exec_cfg (h : exec i s = .next t) : t.cfg = s.cfg :=
  (exec_fixesUnimplemented h).1

/-- An event is the write of no register (R80). -/
theorem ne_writeInstr_of_isEvent (hi : (requestKind i).isEvent = true) (r : Reg) (size : BitVec 4) (lane : BitVec 2)
    (data : Word) : i ≠ writeInstr r size lane data := by
  rintro rfl
  cases r <;> cases hi

/-- Settles O58: an event is no bus write, and only bus writes change these fields. -/
theorem eventsLeaveControlStateAlone : Obligations.EventsLeaveControlStateAlone := by
  intro i s t hi h
  have hwrite := ne_writeInstr_of_isEvent hi
  obtain ⟨hcfg, hslots⟩ := exec_fixesUnimplemented h
  obtain ⟨hhcr, -⟩ := exec_hcrOnlyCountsUp h (hwrite .hcr)
  exact ⟨exec_vmcr h (hwrite .vmcr), congrArg vtrWord hcfg, fun n hn => exec_apr_get h n hn (hwrite (.apr n)), hhcr,
    hslots⟩

/-! ### ACK (R200, R201) -/

/-- Settles O46: an ACK activates HPPI's slot, or answers 1023. -/
theorem ackActivatesHppiAndReturnsItsVid : Obligations.AckActivatesHppiAndReturnsItsVid :=
  fun s => ⟨execEvAck_none s, fun _ hk => execEvAck_some s hk⟩

/-- An ACK makes HPPI's slot Active, so it is no longer pending (R200). -/
theorem exec_evAck_hppi_state (h : exec .evAck s = .next t) (hj : hppi s = some j) : t.lr[j].state = .active := by
  rw [exec_evAck_lr_get h, if_pos hj]

/-- An ACK takes its slot from a pending state to Active, neither of which is Inactive (R143, R200). -/
theorem exec_evAck_inactive_iff (h : exec .evAck s = .next t) (j : SlotIndex) :
    t.lr[j].state = .inactive ↔ s.lr[j].state = .inactive := by
  by_cases hj : hppi s = some j
  · obtain ⟨-, hpending, -⟩ := (eligible_iff s j).1 (hppi_eligible s hj)
    rw [exec_evAck_hppi_state h hj]
    refine iff_of_false nofun fun hinactive => ?_
    rw [hinactive] at hpending
    cases hpending
  · rw [exec_evAck_lr_get h, if_neg hj]

/-- Settles O47: the slot taken was not Inactive and is not, and an Active slot is not eligible. -/
theorem ackKeepsEmptyListAndConsumesPending : Obligations.AckKeepsEmptyListAndConsumesPending := by
  intro s t h
  have hcfg := exec_cfg h
  have hstate := exec_evAck_inactive_iff h
  refine ⟨elrsr0_eq_of_inactive_iff hcfg hstate, validCount_eq_of_inactive_iff hcfg hstate,
    exec_eoif h nofun nofun nofun, fun j hj hstill => ?_⟩
  obtain ⟨-, hpending, -⟩ := (eligible_iff t j).1 (hppi_eligible t hstill)
  rw [exec_evAck_hppi_state h hj] at hpending
  cases hpending

/-! ### The slot an EOI matches (R202) -/

/-- Slot j is implemented, active and holds the vid (R202). -/
def HoldsActive (vid : IntId) (s : State) (j : SlotIndex) : Prop :=
  j.val < s.cfg.nLr ∧ (s.lr[j].state = .active ∨ s.lr[j].state = .activeAndPending) ∧ s.lr[j].vid = vid

/-- `HoldsActive` is the test of `eoiMatch`. -/
theorem holdsActive_iff : HoldsActive vid s j ↔
    (s.impl j && s.lr[j].state.isActive && s.lr[j].vid == vid) = true := by
  rw [HoldsActive, Bool.and_eq_true, Bool.and_eq_true, impl_iff, SlotState.isActive_iff, beq_iff_eq, and_assoc]

theorem not_holdsActive_iff : ¬HoldsActive vid s j ↔
    (s.impl j && s.lr[j].state.isActive && s.lr[j].vid == vid) = false := by
  rw [holdsActive_iff, Bool.not_eq_true]

theorem eoiMatch_eq_none_iff : eoiMatch vid s = none ↔ ∀ j, ¬HoldsActive vid s j := by
  rw [eoiMatch, ← Fin.find?_eq_find?_finRange, Fin.find?_eq_none_iff]
  exact forall_congr' fun _ => not_holdsActive_iff.symm

/-- The search meets the slots in the order of their indices, so it finds the lowest (R202). -/
theorem eoiMatch_eq_some_iff :
    eoiMatch vid s = some j ↔ HoldsActive vid s j ∧ ∀ k, k < j → ¬HoldsActive vid s k := by
  rw [eoiMatch, ← Fin.find?_eq_find?_finRange, Fin.find?_eq_some_iff]
  exact and_congr holdsActive_iff.symm (forall₂_congr fun _ _ => not_holdsActive_iff.symm)

/-- Settles O48: `eoiMatch` searches the slots in the order of their indices. -/
theorem eoiMatchesLowestActiveSlotOfItsVid : Obligations.EoiMatchesLowestActiveSlotOfItsVid :=
  fun _ _ => ⟨eoiMatch_eq_none_iff, fun _ => eoiMatch_eq_some_iff⟩

/-! ### EOI (R202, R203) -/

/-- The 5-bit counter counts up to 31 (R203). -/
theorem saturatingSucc_eq_ofNat (c : BitVec 5) : saturatingSucc c = BitVec.ofNat 5 (min (c.toNat + 1) 31) := by
  rw [← saturatingSucc_toNat, BitVec.ofNat_toNat, BitVec.setWidth_eq]

/-- Settles O50: the unmatched EOI counts. -/
theorem unmatchedEoiCountsAndSaturates : Obligations.UnmatchedEoiCountsAndSaturates := by
  intro vid s hnone
  rw [← saturatingSucc_eq_ofNat]
  exact execEvEoi_none s vid hnone

/-- Ending an active slot keeps whether it is pending: Active becomes Inactive, ActiveAndPending Pending (R202). -/
theorem endedSlot_isPending {x : Slot} (hactive : x.state.isActive = true) :
    (endedSlot x).state.isPending = x.state.isPending := by
  rcases (SlotState.isActive_iff _).1 hactive with h | h <;> simp [endedSlot, h, SlotState.isPending]

/-- An EOI changes for no slot whether it is pending (R202). -/
theorem exec_evEoi_isPending (h : exec (.evEoi vid) s = .next t) (j : SlotIndex) :
    t.lr[j].state.isPending = s.lr[j].state.isPending := by
  rw [exec_evEoi_lr_get h]
  split
  · next hj =>
    obtain ⟨-, hactive, -⟩ := eoiMatch_some s hj
    exact endedSlot_isPending hactive
  · rfl

/-- Settles O51: the matched slot is implemented, and its flag and state show in its status bits. -/
theorem eoiStatusEffects : Obligations.EoiStatusEffects := by
  intro vid s t h
  have hcfg := exec_cfg h
  obtain ⟨hhcr, -⟩ := exec_hcrOnlyCountsUp h nofun
  refine ⟨npBit_eq_of_isPending_eq hcfg (congrArg Hcr.npie hhcr :) (exec_evEoi_isPending h), fun j hj => ?_⟩
  obtain ⟨himpl, -, -⟩ := eoiMatch_some s hj
  rw [← hcfg] at himpl
  constructor
  · intro hhw
    have hflag : t.eoif[j] = true := by rw [exec_evEoi_eoif_get h, if_pos ⟨hj, hhw⟩]
    exact ⟨(eisr0_slot_bit_iff j).2 ⟨himpl, hflag⟩, misr_eoi_of_eoif himpl hflag⟩
  · intro hactive
    have hended : t.lr[j].state = .inactive := by
      rw [exec_evEoi_lr_get h, if_pos hj, endedSlot, if_pos hactive]
    exact (elrsr0_slot_bit_iff j).2 ⟨himpl, hended⟩

/-! ### DEACT_DONE (R204) -/

/-- Taking one slot out of a bitmap clears its bit. -/
theorem bitmap_and_not (f g : SlotIndex → Bool) (n : SlotIndex) (hg : ∀ j, g j = (f j && !decide (j = n))) :
    bitmap g = bitmap f &&& ~~~(1#32 <<< n.val) := by
  apply BitVec.eq_of_getLsbD_eq
  intro k hk
  have hone : (1#32 <<< n.val).getLsbD k = decide (k = n.val) := by
    rw [show 1#32 <<< n.val = bitAt true n.val from rfl, bitAt_getLsbD, decide_eq_true hk, Bool.true_and, Bool.and_true]
  rw [BitVec.getLsbD_and, BitVec.getLsbD_not, hone, bitmap_getLsbD, bitmap_getLsbD, decide_eq_true hk, Bool.true_and]
  split
  · simp only [hg, Fin.ext_iff]
  · rfl

/-- A DEACT_DONE takes its slot out of the EOI status: no unimplemented slot is in it (R171, R204). -/
theorem exec_evDeact_eisrBit (h : exec (.evDeact n) s = .next t) (j : SlotIndex) :
    eisrBit t j = (eisrBit s j && !decide (j = n)) := by
  rw [Bool.eq_iff_iff, Bool.and_eq_true, Bool.not_eq_true', decide_eq_false_iff_not, eisrBit_iff, eisrBit_iff,
    exec_cfg h, exec_evDeact_eoif_get h]
  by_cases hcleared : n = j ∧ j.val < s.cfg.nLr
  · rw [if_pos hcleared]
    exact iff_of_false nofun fun hkept => hkept.2 hcleared.1.symm
  · rw [if_neg hcleared]
    exact (and_iff_left_of_imp fun ⟨hj, _⟩ hn => hcleared ⟨hn.symm, hj⟩).symm

/-- Settles O52: the event clears the flag, and so takes the slot out of the EOI status. -/
theorem deactDoneClearsItsEoiStatus : Obligations.DeactDoneClearsItsEoiStatus := by
  intro n s
  have hexec : exec (.evDeact n) s = .next ((if s.impl n then s.setEoif n false else s).answer .eventDone) := rfl
  refine ⟨_, hexec, ?_, bitmap_and_not _ _ n (exec_evDeact_eisrBit hexec)⟩
  simp only [impl_iff]
  split <;> rfl

end Sys2Proof.Machine
end

section
/-!
The values at creation (R240-R242), and saving a register by a 4-byte read and restoring it by a 4-byte write (R246).
They settle O21, O22, O23 and O39.
-/
namespace Sys2Proof.Machine

variable {s u : State} {k : SlotIndex}

/-! ### The stored values at creation (R240, R241) -/

theorem hcrWord_zero : hcrWord Hcr.zero = 0#32 := by decide

theorem vmcrWord_zero : vmcrWord Vmcr.zero = 0#32 := by decide

/-- Settles O21: each stored field is created at 0, and VTR is read from the configuration. -/
theorem creationValues : Obligations.CreationValues :=
  fun c => ⟨fun i => ⟨created_lr_get c i, created_eoif_get c i⟩, State.created_pws c, hcrWord_zero, vmcrWord_zero,
    created_apr_get c, rfl⟩

/-- Settles O22: the host's reset state is the created one, whose queue is empty. -/
theorem resetIsCreation : Obligations.ResetIsCreation :=
  ⟨rfl, State.created_inbox Config.standard⟩

/-! ### The derived values at creation (R242) -/

/-- The bitmap of the slots below index n is n ones. -/
theorem bitmap_lt (n : Nat) (hn : n ≤ 16) : bitmap (fun i => decide (i.val < n)) = BitVec.ofNat 32 (2 ^ n - 1) := by
  apply BitVec.eq_of_getLsbD_eq
  intro k hk
  rw [bitmap_getLsbD, BitVec.getLsbD_ofNat, Nat.testBit_two_pow_sub_one, decide_eq_true hk, Bool.true_and]
  split
  · rfl
  · next hout => exact (decide_eq_false (by omega)).symm

/-- Every implemented slot is empty at creation (R170). -/
theorem created_elrsr0 (c : Config) : elrsr0 (State.created c) = BitVec.ofNat 32 (2 ^ c.nLr - 1) := by
  have hbit (i : SlotIndex) : elrsrBit (State.created c) i = decide (i.val < c.nLr) := by
    rw [Bool.eq_iff_iff, elrsrBit_iff, created_lr_get, decide_eq_true_eq]
    exact and_iff_left rfl
  exact (bitmap_congr hbit).trans (bitmap_lt c.nLr (nLr_bounds c).2)

/-- No EOI flag is set at creation (R171). -/
theorem created_eisr0 (c : Config) : eisr0 (State.created c) = 0#32 := by
  refine of_not_not fun hne => ?_
  obtain ⟨i, hi⟩ := (bitmap_ne_zero_iff _).1 hne
  obtain ⟨-, hflag⟩ := (eisrBit_iff _ i).1 hi
  rw [created_eoif_get] at hflag
  cases hflag

/-- No condition of MISR holds at creation: the EOI summary has no flag to show, and every other condition's enable is 0
(R172-R178). -/
theorem created_misrCondition (c : Config) (k : Nat) : misrCondition (State.created c) k = false := by
  match k with
  | 0 => rw [misrCondition, eoiBit, created_eisr0, bne_self_eq_false]
  | 1 | 2 | 3 | 4 | 5 | 6 | 7 | _ + 8 => rfl

theorem created_misr (c : Config) : misr (State.created c) = 0#32 :=
  BitVec.eq_of_getLsbD_eq fun k _ => by rw [misr_getLsbD, created_misrCondition, BitVec.getLsbD_zero]

/-- No slot is pending at creation, so none is eligible (R190, R191). -/
theorem created_hppi (c : Config) : hppi (State.created c) = none := by
  rw [hppi_eq_none_iff]
  intro i hi
  obtain ⟨-, hpending, -⟩ := (eligible_iff _ i).1 hi
  rw [created_lr_get] at hpending
  cases hpending

/-- Settles O23: the statuses of empty slots with no EOI flag, no enable and nothing pending. -/
theorem derivedValuesAtCreation : Obligations.DerivedValuesAtCreation :=
  fun c => ⟨created_elrsr0 c, created_eisr0 c, rfl, rfl, created_misr c, rfl, created_hppi c⟩

/-! ### Save and restore (R246) -/

/-- A 4-byte read of a register returns its word at any lane (R65). -/
theorem exec_readInstr_word (r : Reg) (lane : BitVec 2) (s : State) :
    exec (readInstr r 4#4 lane) s = .next (s.answer (.readData (regWord r s))) :=
  exec_readInstr r 4#4 lane s

/-- A 4-byte write of a register is its 32-bit write at any lane (R69). -/
theorem exec_writeInstr_word (r : Reg) (lane : BitVec 2) (v : Word) (u : State) :
    exec (writeInstr r 4#4 lane v) u = .next ((regWrite r v u).answer .writeDone) :=
  exec_writeInstr r 4#4 lane v u

/-- HCR's stored fields survive being saved and restored (R102, R103). -/
theorem hcrWrite_hcrWord (h : Hcr) (u : State) : hcrWrite (hcrWord h) u = u.setHcr h := by
  rw [hcrWrite, hcrOfWord_hcrWord]

/-- So do VMCR's (R106, R107). -/
theorem vmcrWrite_vmcrWord (m : Vmcr) (u : State) : vmcrWrite (vmcrWord m) u = u.setVmcr m := by
  rw [vmcrWrite, vmcrOfWord_vmcrWord]

/-- A list register's saved word, written into a state of the same configuration, replaces the slot by the saved one
where the slot is implemented (R142, R151). -/
theorem lrWrite_lrRead (hcfg : u.cfg = s.cfg) :
    lrWrite k (lrRead k s) u = if k.val < s.cfg.nLr then replaceSlot k u.lr[k] s.lr[k] u else u := by
  have himpl : u.impl k = s.impl k := by rw [State.impl, State.impl, hcfg]
  split
  · next hk =>
    rw [lrRead_eq, if_pos hk, lrWrite_implemented u k _ (himpl.trans ((impl_iff s k).2 hk)), decodeLR_encodeLR]
  · next hk => exact lrWrite_unimplemented u k _ (himpl.trans ((impl_eq_false_iff s k).2 (Nat.le_of_not_lt hk)))

/-- The slots after a list register is restored. -/
theorem lrWrite_lrRead_lr (hcfg : u.cfg = s.cfg) :
    (lrWrite k (lrRead k s) u).lr = if k.val < s.cfg.nLr then u.lr.set k s.lr[k] else u.lr := by
  rw [lrWrite_lrRead hcfg, apply_ite State.lr, replaceSlot_lr]

/-- The EOI flags after a list register is restored: the slot's is lost unless Inactive is restored over Inactive
(R144). -/
theorem lrWrite_lrRead_eoif (hcfg : u.cfg = s.cfg) :
    (lrWrite k (lrRead k s) u).eoif =
      if k.val < s.cfg.nLr ∧ ¬(s.lr[k].state = .inactive ∧ u.lr[k].state = .inactive) then u.eoif.set k false
      else u.eoif := by
  rw [lrWrite_lrRead hcfg, apply_ite State.eoif, replaceSlot_eoif, ite_and (P := k.val < s.cfg.nLr)]
  simp only [ite_not, and_comm]

/-- Settles O39: the read hands out the register's word, and the register's 32-bit write of that word stores the value
it was read from. -/
theorem savedRegistersRestore : Obligations.SavedRegistersRestore := by
  intro s u lane lane' n k hcfg restores
  have restore (r : Reg) {t : State} (ht : regWrite r (regWord r s) u = t) :
      restores (readInstr r 4#4 lane) (regWord r s) (writeInstr r 4#4 lane') (t.answer .writeDone) :=
    ⟨exec_readInstr_word r lane s, ht ▸ exec_writeInstr_word r lane' (regWord r s) u⟩
  exact ⟨restore .hcr (hcrWrite_hcrWord s.hcr u), restore .vmcr (vmcrWrite_vmcrWord s.vmcr u), restore (.apr n) rfl,
    _, restore (.lr k) rfl, lrWrite_lrRead_lr hcfg, lrWrite_lrRead_eoif hcfg, lrWrite_hcr .., lrWrite_vmcr ..,
    lrWrite_pws ..⟩

end Sys2Proof.Machine
end
